-- ==== Sys2Proof/Word.lean ====
section
/-! DEFINITION. The command word, the transport byte and the envelope direction. -/

namespace Sys2Proof

/-- A command is one 32-bit word (R31, R37). -/
abbrev Word := BitVec 32

/-- A byte of a byte-wide transport (R31). -/
abbrev Byte := BitVec 8

/-- The direction of the volume envelope (R20): the document's `direction ∈ {decrease, increase}`. -/
inductive Direction where
  | decrease
  | increase
  deriving DecidableEq, Repr

end Sys2Proof
end

