-- ==== Sys2Proof/Syntax.lean ====
section
/-! DEFINITION. The eight commands of the opcode table (30_encoding.md R45). -/

namespace Sys2Proof

/-- One constructor per row of spec/opcode_table.json. An operand has exactly the bits its format gives it (R39 to
R44), so every term is a command some word encodes; the ranges an assembler checks (R50) are in WellFormed.lean. -/
inductive Instr where
  /-- SETFREQ, format F (R39): the 11-bit frequency value. -/
  | setfreq (f : BitVec 11)
  /-- SETDUTY, format D (R40): the duty index. -/
  | setduty (d : BitVec 2)
  /-- SETENV, format E (R41): initial volume, direction, envelope period. -/
  | setenv (iv : BitVec 4) (dir : Direction) (per : BitVec 3)
  /-- TRIG, format C (R42). -/
  | trig
  /-- UPDATE, format U (R43): the cycle count. -/
  | update (n : BitVec 28)
  /-- SAMPLE, format Z (R44). -/
  | sample
  /-- RDSAMPLE, format C (R42). -/
  | rdsample
  /-- RDVOL, format C (R42). -/
  | rdvol
  deriving DecidableEq, Repr

end Sys2Proof
end

