-- ==== Sys2Proof/Decode.lean ====
section
/-! DEFINITION. Command encoding (30_encoding.md R37 to R50): the byte transport, the decoder, the encoder and the opcode table. -/

namespace Sys2Proof

/-! ## Fields -/

/-- `w[31:28]` (R37). -/
def opcodeOf (w : Word) : BitVec 4 := w.extractLsb' 28 4

/-- `w[27:26]` (R38): the channel field of formats F, D, E and C. -/
def channelOf (w : Word) : BitVec 2 := w.extractLsb' 26 2

/-- `dir = w[3]`, 0 = decrease, 1 = increase (R41, D25). -/
def directionOfBit (b : BitVec 1) : Direction := if b = 1#1 then .increase else .decrease

/-- The direction's bit (R41). -/
def bitOfDirection : Direction → BitVec 1
  | .decrease => 0#1
  | .increase => 1#1

/-! ## Decoder -/

/-- What a word decodes to: a command, or the verdict `Reserved` (R48). -/
inductive Decoded where
  | command (i : Instr)
  | reserved
  deriving DecidableEq, Repr

/-- `Decode` of R48, test by test. Testing `w[27:11] = 0` and its like covers the channel field and the must-be-zero
bits at once. -/
def decode (w : Word) : Decoded :=
  if opcodeOf w = 0x1#4 ∧ w.extractLsb' 11 17 = 0#17 then .command (.setfreq (w.extractLsb' 0 11))
  else if opcodeOf w = 0x2#4 ∧ w.extractLsb' 2 26 = 0#26 then .command (.setduty (w.extractLsb' 0 2))
  else if opcodeOf w = 0x3#4 ∧ w.extractLsb' 8 20 = 0#20 then
    .command (.setenv (w.extractLsb' 4 4) (directionOfBit (w.extractLsb' 3 1)) (w.extractLsb' 0 3))
  else if opcodeOf w = 0x4#4 ∧ w.extractLsb' 0 28 = 0#28 then .command .trig
  else if opcodeOf w = 0x5#4 then .command (.update (w.extractLsb' 0 28))
  else if opcodeOf w = 0x6#4 ∧ w.extractLsb' 0 28 = 0#28 then .command .sample
  else if opcodeOf w = 0x7#4 ∧ w.extractLsb' 0 28 = 0#28 then .command .rdsample
  else if opcodeOf w = 0x8#4 ∧ w.extractLsb' 0 28 = 0#28 then .command .rdvol
  else .reserved

/-! ## Encoder -/

/-- The word of a command, field by field from bit 31 down, as the field layout table of 30_encoding.md has them:
opcode, channel 0, must-be-zero bits, operand. -/
def encode : Instr → Word
  | .setfreq f => 0x1#4 ++ 0#2 ++ 0#15 ++ f
  | .setduty d => 0x2#4 ++ 0#2 ++ 0#24 ++ d
  | .setenv iv dir per => 0x3#4 ++ 0#2 ++ 0#18 ++ iv ++ bitOfDirection dir ++ per
  | .trig => 0x4#4 ++ 0#2 ++ 0#26
  | .update n => 0x5#4 ++ n
  | .sample => 0x6#4 ++ 0#28
  | .rdsample => 0x7#4 ++ 0#2 ++ 0#26
  | .rdvol => 0x8#4 ++ 0#2 ++ 0#26

/-! ## The opcode map (R45) -/

/-- A row of R45: the bits a word must have (`value`, the rule's "match") where `mask` has ones. -/
structure OpcodeRow where
  mask : Word
  value : Word
  deriving DecidableEq, Repr

/-- A word selects a row exactly when `(w AND mask) = match` (R45). -/
def OpcodeRow.selects (r : OpcodeRow) (w : Word) : Bool := decide (w &&& r.mask = r.value)

/-- The row of R45 a command belongs to. -/
def Instr.row : Instr → OpcodeRow
  | .setfreq _ => ⟨0xFFFFF800#32, 0x10000000#32⟩
  | .setduty _ => ⟨0xFFFFFFFC#32, 0x20000000#32⟩
  | .setenv _ _ _ => ⟨0xFFFFFF00#32, 0x30000000#32⟩
  | .trig => ⟨0xFFFFFFFF#32, 0x40000000#32⟩
  | .update _ => ⟨0xF0000000#32, 0x50000000#32⟩
  | .sample => ⟨0xFFFFFFFF#32, 0x60000000#32⟩
  | .rdsample => ⟨0xFFFFFFFF#32, 0x70000000#32⟩
  | .rdvol => ⟨0xFFFFFFFF#32, 0x80000000#32⟩

/-- The eight rows of R45 in the order of their opcodes. -/
def opcodeMap : List OpcodeRow :=
  [Instr.row (.setfreq 0), Instr.row (.setduty 0), Instr.row (.setenv 0 .decrease 0), Instr.row .trig,
   Instr.row (.update 0), Instr.row .sample, Instr.row .rdsample, Instr.row .rdvol]

/-! ## Byte transport (20_memory.md R31, R32) -/

/-- A word on a byte transport: four bytes, least significant first (R31). -/
def bytesOfWord (w : Word) : List Byte :=
  [w.extractLsb' 0 8, w.extractLsb' 8 8, w.extractLsb' 16 8, w.extractLsb' 24 8]

/-- The word four transported bytes carry (R31). -/
def wordOfBytes (b0 b1 b2 b3 : Byte) : Word := b3 ++ b2 ++ b1 ++ b0

/-- The command words a transported byte sequence presents: one per four bytes; 1, 2 or 3 bytes left over present no
command (R32). -/
def wordsOfBytes : List Byte → List Word
  | b0 :: b1 :: b2 :: b3 :: rest => wordOfBytes b0 b1 b2 b3 :: wordsOfBytes rest
  | _ => []

/-- Decode the first command of a transported byte sequence; `none` where the bytes hold no whole word (R32). -/
def decodeBytes : List Byte → Option (Decoded × List Byte)
  | b0 :: b1 :: b2 :: b3 :: rest => some (decode (wordOfBytes b0 b1 b2 b3), rest)
  | _ => none

/-- The low `nbits` bits of a number as a command word; the bits above are 0. -/
def tableWord (nbits w : Nat) : Word := BitVec.ofNat 32 (w % 2 ^ nbits)

/-- The instruction the decoder reads from a table word laid out on the byte transport. A command has one length, 32
bits (R37), so a longer word is none. -/
def decodeTableWord (nbits w : Nat) : Option Instr :=
  if 32 < nbits then none
  else
    match decodeBytes (bytesOfWord (tableWord nbits w)) with
    | some (.command i, []) => some i
    | _ => none

end Sys2Proof
end

