-- ==== Sys2Proof/Config.lean ====
section
/-! DEFINITION. The implementation parameters of 00_scope.md (R3 to R10), and the two values the spec leaves open. -/

namespace Sys2Proof

/-- The parameters a model takes as arguments (00_scope.md, "Implementation parameters"). None changes
after reset. DESIGN CHOICE (notes/assumptions/2.md): they travel in `State.cfg`, which no step writes, because the
step's type has no other argument. -/
structure Config where
  /-- `CLOCK_HZ` (R3), master cycles per second. -/
  clockHz : Nat
  /-- `OUTPUT_HZ` (R5), output samples per second. -/
  outputHz : Nat
  /-- `DUTY_TABLE` (R6): row `d`, bit `p`. -/
  dutyTable : Vector (Vector Bool 8) 4
  /-- `FS_EVENT_AFTER_ADVANCE` (R7). -/
  fsEventAfterAdvance : Bool
  /-- `DUTY_RESET` (R8). -/
  dutyReset : Fin 4
  deriving DecidableEq, Repr

namespace Config

/-- `FS_DIV = CLOCK_HZ / 512` (R4). -/
def fsDiv (c : Config) : Nat := c.clockHz / 512

/-- How many ones each row of a duty table holds. -/
def onesPerRow (t : Vector (Vector Bool 8) 4) : List Nat :=
  t.toList.map fun row => row.toList.count true

/-- What R3, R5 and R6 ask of the parameters: a clock that is a positive multiple of 512, a positive output rate, and
rows of 1, 2, 4 and 6 ones. -/
def wf (c : Config) : Bool :=
  decide (0 < c.clockHz) && decide (c.clockHz % 512 = 0) && decide (0 < c.outputHz) &&
    decide (onesPerRow c.dutyTable = [1, 2, 4, 6])

/-- `DUTY_RESET` (R8) has no default: "Must not assume: 0, 2, or any value" (N2). It has no body, so a claim about
`State.reset` holds whatever it is (notes/assumptions/4.md). -/
opaque openDutyReset : Fin 4

/-- `SCALE16` (R9, D14) is OPEN and the host's: from a 4-bit amplitude to a signed 16-bit sample
(notes/assumptions/22.md). The block never calls it. -/
opaque scale16 : Fin 16 → BitVec 16

/-- The default `DUTY_TABLE` of R6. PRESUMED (notes/assumptions/3.md): the spec marks it general knowledge (G1). -/
def defaultDutyTable : Vector (Vector Bool 8) 4 :=
  #v[#v[false, false, false, false, false, false, false, true],
     #v[true, false, false, false, false, false, false, true],
     #v[true, false, false, false, false, true, true, true],
     #v[false, true, true, true, true, true, true, false]]

/-- The spec's defaults: R3 (D11), R5 (D12), R6 (D10), R7 (D7); `DUTY_RESET` stays open (D9). -/
def default : Config where
  clockHz := 4194304
  outputHz := 44100
  dutyTable := defaultDutyTable
  fsEventAfterAdvance := true
  dutyReset := openDutyReset

end Config

end Sys2Proof
end

