-- ==== Sys2Proof/Machine/State.lean ====
section
/-! DEFINITION. The state of the block (10_state.md R11 to R29), its ports, and the state after reset (70_reset_and_hazards.md R94). -/

namespace Sys2Proof.Machine

/-- The fault codes a command can latch (R81). They are state of the block (R26), not outcomes of the model. -/
inductive FaultCode where
  /-- Code 1, `RESERVED_ENCODING`: any word that decodes to `Reserved`. -/
  | reservedEncoding
  /-- Code 2, `INVALID_FREQUENCY`: SETFREQ with f = 0. -/
  | invalidFrequency
  /-- Code 3, `CHANNEL_UNCONFIGURED`: UPDATE or SAMPLE that would consume cycles while no frequency was written. -/
  | channelUnconfigured
  deriving DecidableEq, Repr

/-- What the block returns for a command (R27). -/
inductive Response where
  | ack
  /-- A 4-bit amplitude or volume. -/
  | value (v : Fin 16)
  | faulted (c : FaultCode)
  deriving DecidableEq, Repr

/-- One output frame: two 4-bit amplitudes (R27, R77). -/
structure Frame where
  left : Fin 16
  right : Fin 16
  deriving DecidableEq, Repr

/-- What the host does at the block's ports (R89). -/
inductive HostEvent where
  /-- The host writes one command word, valid or not. -/
  | issue (w : Word)
  /-- The host asserts the reset input between two commands (R93). -/
  | reset
  /-- A second command is presented while one is in flight: outside the block's contract (R36, U5). -/
  | concurrent (w₁ w₂ : Word)
  deriving DecidableEq, Repr

/-- The frame sequencer (R12, R13). -/
structure FrameSequencer where
  /-- `S.fs.counter`: master cycles until the next boundary. -/
  counter : Nat
  /-- `S.fs.step`: the step index. -/
  step : Fin 8
  deriving DecidableEq, Repr

/-- The square channel (R14 to R18). -/
structure Channel where
  /-- `S.ch.period`: master cycles between phase advances; 0 while no frequency was written. -/
  period : Nat
  /-- `S.ch.counter`: master cycles until the next zero-crossing. -/
  counter : Nat
  /-- `S.ch.phase`. -/
  phase : Fin 8
  /-- `S.ch.duty`: row of `DUTY_TABLE`. -/
  duty : Fin 4
  /-- `S.ch.sample`: last computed amplitude. -/
  sample : Fin 16
  deriving DecidableEq, Repr

/-- The volume envelope (R19 to R24). -/
structure Envelope where
  /-- `S.env.initial`. -/
  initial : Fin 16
  /-- `S.env.dir`. -/
  dir : Direction
  /-- `S.env.period`, in envelope ticks; 0 disables the ticks. -/
  period : Fin 8
  /-- `S.env.volume`. -/
  volume : Fin 16
  /-- `S.env.counter`: envelope ticks before the next volume step, 0..8. -/
  counter : Fin 9
  /-- `S.env.updating`: the block's only flag; false means frozen. -/
  updating : Bool
  deriving DecidableEq, Repr

/-- Everything the spec gives the machine. `cfg` is the parameters (no step writes it, notes/assumptions/2.md); `fs`,
`ch`, `env`, `acc` and `fault` are the block's state (10_state.md); `inbox`, `responses` and `frames` are its ports
(R27, notes/assumptions/1.md); `time` and `trigFresh` are ghosts no command reads (R29, R96,
notes/assumptions/6.md). -/
structure State where
  cfg : Config
  fs : FrameSequencer
  ch : Channel
  env : Envelope
  /-- `S.acc` (R25): the fractional-cycle accumulator times `OUTPUT_HZ`. -/
  acc : Nat
  /-- `S.fault` (R26). -/
  fault : Option FaultCode
  /-- What the host has yet to present, first first. -/
  inbox : List HostEvent
  /-- Every response so far, oldest first. -/
  responses : List Response
  /-- Every output frame so far, oldest first. -/
  frames : List Frame
  /-- Master time T (R29). -/
  time : Nat
  /-- A TRIG has run since reset, and no SETENV since the last TRIG (R96). -/
  trigFresh : Bool
  deriving DecidableEq, Repr

/-- No command of this block stops the machine: each fault of the spec is latched in `State.fault`, answered
`Faulted(code)` and followed by a next state (R82, R84), and "No behaviour is modelled as `stuck`"
(93_implementation_defined.md). So there is no constructor (notes/assumptions/9.md). -/
inductive Fault where
  deriving DecidableEq, Repr

/-- Why a step has no meaning. -/
inductive Refusal where
  /-- Raised by an arm of `exec` whose instruction has no meaning yet; no arm raises it today. Safe. -/
  | notModelled (mnemonic : String)
  /-- Raised by the host port for `HostEvent.concurrent`: "a model refuses a run with more than one command in
  flight, and gives it no meaning" (R36, U5). Safe. -/
  | concurrentCommands
  /-- Raised by `step` when the parameters break R3, R5 or R6 (D11 "refused", N10). Safe. -/
  | illFormedConfiguration
  deriving DecidableEq, Repr

/-- The outcome of a command or a step. -/
abbrev Result := Host.Outcome State Fault Refusal

/-- The state after reset of a block with parameters `c`, before the host has done anything: R94, element by
element. -/
def State.resetOf (c : Config) : State where
  cfg := c
  fs := { counter := c.fsDiv, step := 0 }
  ch := { period := 0, counter := 0, phase := 0, duty := c.dutyReset, sample := 0 }
  env := { initial := 0, dir := .decrease, period := 0, volume := 0, counter := 0, updating := false }
  acc := 0
  fault := none
  inbox := []
  responses := []
  frames := []
  time := 0
  trigFresh := false

/-- The block right after reset with the spec's default parameters (R94). The host has issued nothing. -/
def State.reset : State := State.resetOf Config.default

end Sys2Proof.Machine
end

