-- ==== Sys2Proof/Machine/Flags.lean ====
section
/-! DEFINITION. The block's only flag, `S.env.updating` (10_state.md R24), and the volume arithmetic that decides it (41_envelope.md R55, R56). -/

namespace Sys2Proof.Machine

/-- `clamp(v, 0, 15)` "computed over the integers" (00_scope.md, Notation). -/
def clampVolume (v : Int) : Fin 16 := ⟨(max 0 (min 15 v)).toNat, by omega⟩

/-- One volume step of ±1 per direction, saturating (R55, R56, C2). -/
def stepVolume (dir : Direction) (v : Fin 16) : Fin 16 :=
  match dir with
  | .increase => clampVolume ((v.val : Int) + 1)
  | .decrease => clampVolume ((v.val : Int) - 1)

/-- A rail is volume 0 or volume 15 (00_scope.md, Glossary). -/
def onRail (v : Fin 16) : Bool := decide (v.val = 0) || decide (v.val = 15)

/-- The flag after a volume step that gave `v`: a step that lands on a rail freezes the envelope, any other leaves the
flag as it was (R55). -/
def updatingAfterStep (v : Fin 16) (updating : Bool) : Bool := if onRail v then false else updating

end Sys2Proof.Machine
end

