-- ==== Sys2Proof/Machine/Operands.lean ====
section
/-! DEFINITION. The operand fields as the numbers the rules use. "Every operand field is an unsigned number, zero-extended; no field is sign-extended, scaled or shifted" (30_encoding.md R49). -/

namespace Sys2Proof.Machine

/-- `PeriodOf(f) = (2048 - f) * 4`, for f in 1..2047 (R59). -/
def periodOf (f : BitVec 11) : Nat := (2048 - f.toNat) * 4

/-- The duty index 0..3 (R40). -/
def dutyIndex (d : BitVec 2) : Fin 4 := d.toFin

/-- A volume 0..15 (R41). -/
def volumeOf (iv : BitVec 4) : Fin 16 := iv.toFin

/-- An envelope period 0..7 (R41). -/
def envPeriodOf (per : BitVec 3) : Fin 8 := per.toFin

/-- The cycle count of UPDATE, in master cycles (R43, R49). -/
def cycleCount (n : BitVec 28) : Nat := n.toNat

end Sys2Proof.Machine
end

