-- ==== Sys2Proof/Machine/Ops.lean ====
section
/-! DEFINITION. The named operations over the state and the ports, taking a fault (60_exceptions.md R82, R84) and reset, the only recovery (70_reset_and_hazards.md R93 to R95). -/

namespace Sys2Proof.Machine

/-! ## Writing one element -/

/-- Replace the frame sequencer's state. -/
def State.withFs (s : State) (x : FrameSequencer) : State := { s with fs := x }

/-- Replace the channel's state. -/
def State.withCh (s : State) (x : Channel) : State := { s with ch := x }

/-- Replace the envelope's state. -/
def State.withEnv (s : State) (x : Envelope) : State := { s with env := x }

/-- Write `S.acc`. -/
def State.withAcc (s : State) (x : Nat) : State := { s with acc := x }

/-- Write `S.fault`. -/
def State.withFault (s : State) (x : Option FaultCode) : State := { s with fault := x }

/-- Replace what the host has yet to present. -/
def State.withInbox (s : State) (x : List HostEvent) : State := { s with inbox := x }

/-- Advance master time T by `n` cycles (R29). -/
def State.elapse (s : State) (n : Nat) : State := { s with time := s.time + n }

/-- Record whether a TRIG is the last of TRIG and SETENV to have run (R96). -/
def State.withTrigFresh (s : State) (b : Bool) : State := { s with trigFresh := b }

/-! ## Ports -/

/-- `respond(r)`: give the host the command's response. -/
def State.respond (s : State) (r : Response) : State := { s with responses := s.responses ++ [r] }

/-- `emit(frame)`: append one output frame to the output stream. -/
def State.emit (s : State) (f : Frame) : State := { s with frames := s.frames ++ [f] }

/-! ## Taking a fault, and recovering from it -/

/-- The number of a fault code (R81). -/
def faultNumber : FaultCode → Nat
  | .reservedEncoding => 1
  | .invalidFrequency => 2
  | .channelUnconfigured => 3

/-- `raise Fault(c)` (R82): the code is latched and answered, and nothing else happens. -/
def State.raise (s : State) (c : FaultCode) : State := (s.withFault (some c)).respond (.faulted c)

/-- R84: while a fault is latched a command is ignored and answered with the first fault's code; otherwise it runs. -/
def State.unlessFaulted (s : State) (run : State) : State :=
  match s.fault with
  | some c => s.respond (.faulted c)
  | none => run

/-- The reset input between two commands: every element of the block takes its reset value (R94), and T starts again
(R29). The responses and frames already given are the host's and stay (R95, notes/assumptions/10.md), as does what it
has yet to present; reset gives no response (R93) and emits nothing (R95). -/
def State.assertReset (s : State) : State :=
  { State.resetOf s.cfg with inbox := s.inbox, responses := s.responses, frames := s.frames }

end Sys2Proof.Machine
end

