-- ==== Sys2Proof/Machine/Envelope.lean ====
section
/-! DEFINITION. The volume envelope (41_envelope.md R53 to R58): SETENV, RDVOL, and the two internal operations. -/

namespace Sys2Proof.Machine

/-- `EnvInit()` (R54). -/
def envInit (e : Envelope) : Envelope :=
  { e with
    volume := e.initial
    counter := if 0 < e.period.val then e.period.castSucc else 8
    updating := true }

/-- The volume step of `EnvTick()` (R55, R56), taken when the envelope counter reaches 0. -/
def envStep (e : Envelope) : Envelope :=
  { e with
    counter := e.period.castSucc
    volume := stepVolume e.dir e.volume
    updating := updatingAfterStep (stepVolume e.dir e.volume) e.updating }

/-- `EnvTick()` (R55). The counter is at least 1 whenever the envelope runs (R55, corner cases); where it is 0 then,
which no run reaches, lowering it leaves 0 (notes/assumptions/27.md). -/
def envTick (e : Envelope) : Envelope :=
  if e.period.val = 0 ∨ e.updating = false then e
  else
    let e' := { e with counter := ⟨e.counter.val - 1, by omega⟩ }
    if e'.counter.val = 0 then envStep e' else e'

/-- SETENV (R53): the three configuration fields and nothing else. -/
def execSetenv (iv : BitVec 4) (dir : Direction) (per : BitVec 3) (s : State) : Result :=
  .next (s.unlessFaulted
    (((s.withEnv { s.env with initial := volumeOf iv, dir := dir, period := envPeriodOf per }).withTrigFresh
      false).respond .ack))

/-- RDVOL (R57): the live volume. -/
def execRdvol (s : State) : Result :=
  .next (s.unlessFaulted (s.respond (.value s.env.volume)))

end Sys2Proof.Machine
end

