-- ==== Sys2Proof/Machine/Channel.lean ====
section
/-! DEFINITION. The square channel (42_square_channel.md R59 to R66): SETFREQ, SETDUTY, TRIG, RDSAMPLE, the crossing and the channel advance. -/

namespace Sys2Proof.Machine

/-- `DutyBit(d, p) = DUTY_TABLE[d][p]` (R60). -/
def dutyBit (c : Config) (d : Fin 4) (p : Fin 8) : Bool := (c.dutyTable[d])[p]

/-- `DutyBit(d, p) * volume`: "0 when the duty bit is low, full envelope volume when high" (R60). -/
def amplitude (c : Config) (d : Fin 4) (p : Fin 8) (volume : Fin 16) : Fin 16 :=
  if dutyBit c d p then volume else 0

/-- `Crossing()` (R65): reload, advance the phase modulo 8, and compute the sample at the new phase. -/
def crossing (c : Config) (volume : Fin 16) (ch : Channel) : Channel :=
  { ch with
    counter := ch.period
    phase := ch.phase + 1
    sample := amplitude c ch.duty (ch.phase + 1) volume }

/-- One sub-step of `ChAdvance` (R64) of `n` cycles, `n` at most the counter: lower the counter, and cross where it
reaches 0. -/
def chSubStep (c : Config) (volume : Fin 16) (n : Nat) (ch : Channel) : Channel :=
  let ch' := { ch with counter := ch.counter - n }
  if ch'.counter = 0 then crossing c volume ch' else ch'

/-- The loop of `ChAdvance` (R64) with `rem` cycles left, one sub-step per unit of fuel. -/
def chLoop (c : Config) (volume : Fin 16) : Nat → Nat → Channel → Channel
  | 0, _, ch => ch
  | fuel + 1, rem, ch =>
    if rem = 0 then ch
    else chLoop c volume fuel (rem - min rem ch.counter) (chSubStep c volume (min rem ch.counter) ch)

/-- `ChAdvance(n)` (R64). Every sub-step but a first one with a zero counter consumes a cycle, so `n + 1` sub-steps are
enough whenever the period is positive, which its callers see to (R64, R67, notes/assumptions/13.md). -/
def chAdvance (c : Config) (volume : Fin 16) (n : Nat) (ch : Channel) : Channel :=
  chLoop c volume (n + 1) n ch

/-- SETFREQ (R61). -/
def execSetfreq (f : BitVec 11) (s : State) : Result :=
  .next (s.unlessFaulted
    (if f = 0#11 then s.raise .invalidFrequency
     else (s.withCh { s.ch with period := periodOf f }).respond .ack))

/-- SETDUTY (R62). -/
def execSetduty (d : BitVec 2) (s : State) : Result :=
  .next (s.unlessFaulted ((s.withCh { s.ch with duty := dutyIndex d }).respond .ack))

/-- TRIG (R63): envelope initialisation, and the period counter reloaded. The phase is kept (D15). -/
def execTrig (s : State) : Result :=
  .next (s.unlessFaulted
    ((((s.withEnv (envInit s.env)).withCh { s.ch with counter := s.ch.period }).withTrigFresh true).respond .ack))

/-- RDSAMPLE (R66): the sample of the last crossing. -/
def execRdsample (s : State) : Result :=
  .next (s.unlessFaulted (s.respond (.value s.ch.sample)))

end Sys2Proof.Machine
end

