-- ==== Sys2Proof/Machine/Scheduler.lean ====
section
/-! DEFINITION. The master cycle scheduler and the frame sequencer (43_scheduler.md R67 to R71): UPDATE and the scheduling loop. -/

namespace Sys2Proof.Machine

/-- `Dispatch(i)` (R70): index 7 ticks the envelope of the one channel; no other index has an event in this block. -/
def dispatch (i : Fin 8) (s : State) : State :=
  if i = 7 then s.withEnv (envTick s.env) else s

/-- `FsBoundary()` (R69): reload, and advance the step index before or after dispatching as
`FS_EVENT_AFTER_ADVANCE` says. -/
def fsBoundary (s : State) : State :=
  let s' := s.withFs { counter := s.cfg.fsDiv, step := s.fs.step + 1 }
  if s.cfg.fsEventAfterAdvance then dispatch (s.fs.step + 1) s' else dispatch s.fs.step s'

/-- One sub-step of `n` cycles (R68, R71): the channel advances, then the frame sequencer's counter is lowered, then, if
it reached 0, the boundary runs. -/
def subStep (n : Nat) (s : State) : State :=
  let s' := (s.withCh (chAdvance s.cfg s.env.volume n s.ch)).withFs { s.fs with counter := s.fs.counter - n }
  if s'.fs.counter = 0 then fsBoundary s' else s'

/-- The loop of `CtlAdvance` (R68) with `rem` cycles left, one sub-step per unit of fuel. -/
def ctlLoop : Nat → Nat → State → State
  | 0, _, s => s
  | fuel + 1, rem, s =>
    if rem = 0 then s
    else ctlLoop fuel (rem - min rem s.fs.counter) (subStep (min rem s.fs.counter) s)

/-- `CtlAdvance(n)` (R68). Every sub-step consumes a cycle because `S.fs.counter >= 1` between sub-steps, so `n` of
them are enough (notes/assumptions/13.md). -/
def ctlAdvance (n : Nat) (s : State) : State := ctlLoop (n + 1) n s

/-- Consume `n` master cycles: the controller's advance, counted in T (R29). -/
def consume (n : Nat) (s : State) : State := (ctlAdvance n s).elapse n

/-- The check UPDATE and SAMPLE share (R67, R75): cycles are to be consumed and no frequency was written. -/
def unconfigured (n : Nat) (s : State) : Bool := decide (0 < n) && decide (s.ch.period = 0)

/-- UPDATE (R67). -/
def execUpdate (n : BitVec 28) (s : State) : Result :=
  .next (s.unlessFaulted
    (if unconfigured (cycleCount n) s then s.raise .channelUnconfigured
     else (consume (cycleCount n) s).respond .ack))

end Sys2Proof.Machine
end

