-- ==== Sys2Proof/Machine/Converter.lean ====
section
/-! DEFINITION. The sample-rate converter (44_sample_rate.md R75 to R77): SAMPLE and the fractional-cycle accumulator. -/

namespace Sys2Proof.Machine

/-- The accumulator after `CLOCK_HZ` is added (R75, R76). -/
def accAdded (s : State) : Nat := s.acc + s.cfg.clockHz

/-- `whole = (S.acc + CLOCK_HZ) div OUTPUT_HZ` (R76). -/
def wholeCycles (s : State) : Nat := accAdded s / s.cfg.outputHz

/-- `(S.acc + CLOCK_HZ) mod OUTPUT_HZ` (R76). -/
def accResidue (s : State) : Nat := accAdded s % s.cfg.outputHz

/-- `OutputFrame()` (R77): the one channel's sample, duplicated. -/
def outputFrame (s : State) : Frame := { left := s.ch.sample, right := s.ch.sample }

/-- The host's scaling of a frame (R9, R77): outside the block. -/
def scaledFrame (f : Frame) : BitVec 16 × BitVec 16 := (Config.scale16 f.left, Config.scale16 f.right)

/-- SAMPLE (R75). -/
def execSample (s : State) : Result :=
  .next (s.unlessFaulted
    (if unconfigured (wholeCycles s) s then s.raise .channelUnconfigured
     else
       let s' := (consume (wholeCycles s) s).withAcc (accResidue s)
       (s'.emit (outputFrame s')).respond .ack))

end Sys2Proof.Machine
end

