-- ==== Sys2Proof/Machine/Dispatch.lean ====
section
/-! DEFINITION. One arm per command of the opcode table. -/

namespace Sys2Proof.Machine

def exec (i : Instr) (s : State) : Host.Outcome State Fault Refusal :=
  match i with
  | .setfreq f => Sys2Proof.Machine.execSetfreq f s
  | .setduty d => Sys2Proof.Machine.execSetduty d s
  | .setenv iv dir per => Sys2Proof.Machine.execSetenv iv dir per s
  | .trig => Sys2Proof.Machine.execTrig s
  | .update n => Sys2Proof.Machine.execUpdate n s
  | .sample => Sys2Proof.Machine.execSample s
  | .rdsample => Sys2Proof.Machine.execRdsample s
  | .rdvol => Sys2Proof.Machine.execRdvol s

end Sys2Proof.Machine
end

