-- ==== Sys2Proof/Machine/HostPort.lean ====
section
/-! DEFINITION. What the block does with each thing the host presents (60_exceptions.md R89, 70_reset_and_hazards.md R93), and the byte transport as the host uses it (20_memory.md R31, R32). -/

namespace Sys2Proof.Machine

/-- A word with the verdict `Reserved` (R46, R47): fault code 1, unless a fault is latched already (R84). -/
def execReserved (s : State) : Result := .next (s.unlessFaulted (s.raise .reservedEncoding))

/-- Execute one command word. -/
def runWord (w : Word) (s : State) : Result :=
  match decode w with
  | .command i => exec i s
  | .reserved => execReserved s

/-- Respond to one host event, which has been taken from the port already. -/
def perform (e : HostEvent) (s : State) : Result :=
  match e with
  | .issue w => runWord w s
  | .reset => .next s.assertReset
  | .concurrent _ _ => .refused .concurrentCommands

/-- Take the host's next event and respond to it; with none the block is idle and its state is kept (R89, R92). -/
def nextEvent (s : State) : Result :=
  match s.inbox with
  | [] => .next s
  | e :: rest => perform e (s.withInbox rest)

/-- The host lines up the words `ws` behind what it already has to present, one command at a time. -/
def State.issueWords (s : State) (ws : List Word) : State := s.withInbox (s.inbox ++ ws.map HostEvent.issue)

/-- The host sends bytes over a byte-wide transport: each whole word is a command, a part of one is none (R31, R32). -/
def State.issueBytes (s : State) (bs : List Byte) : State := s.issueWords (wordsOfBytes bs)

end Sys2Proof.Machine
end

