-- ==== Sys2Proof/Machine/Step.lean ====
section
/-! DEFINITION. One step of the machine: one host event, executed to completion (00_scope.md R2, 20_memory.md R33). -/

namespace Sys2Proof.Machine

/-- One step. Parameters that break R3, R5 or R6 make no block of this spec, so there is no meaning (D11). -/
def step (s : State) : Host.Outcome State Fault Refusal :=
  if s.cfg.wf then nextEvent s else .refused .illFormedConfiguration

/-- The host presents a table word next (notes/assumptions/7.md): it goes to the front of what the host has yet to
present, which is where `step` takes its next command from. -/
def State.withFetchWord (s : State) (nbits w : Nat) : State :=
  s.withInbox (.issue (tableWord nbits w) :: s.inbox)

end Sys2Proof.Machine
end

