-- ==== Sys2Proof/WellFormed.lean ====
section
/-! DEFINITION. A line of assembly with operands as written, and the range check an assembler makes (30_encoding.md R50, R51). -/

namespace Sys2Proof

/-- One line of assembly (R50) or pseudo-command (R51). Operands are the numbers as written, so a line can be out of
range. The channel operand is omitted (R50). -/
inductive Line where
  | setfreq (f : Nat)
  | setduty (d : Nat)
  | setenv (iv : Nat) (dir : Direction) (per : Nat)
  | trig
  | update (n : Nat)
  | sample
  | rdsample
  | rdvol
  /-- `NOP` (R51). -/
  | nop
  /-- `RUN n`, for any natural n (R51). -/
  | run (n : Nat)
  /-- `NOTE f, d, iv, dir, per` (R51). -/
  | note (f d iv : Nat) (dir : Direction) (per : Nat)
  /-- `SAMPLES k` (R51). -/
  | samples (k : Nat)
  deriving DecidableEq, Repr

/-- The operand ranges of R50's table; a pseudo-command is in range when every command it expands to is (R51). -/
def Line.wellFormed : Line → Bool
  | .setfreq f => decide (f ≤ 2047)
  | .setduty d => decide (d ≤ 3)
  | .setenv iv _ per => decide (iv ≤ 15) && decide (per ≤ 7)
  | .trig => true
  | .update n => decide (n ≤ 268435455)
  | .sample => true
  | .rdsample => true
  | .rdvol => true
  | .nop => true
  | .run _ => true
  | .note f d iv _ per => decide (f ≤ 2047) && decide (d ≤ 3) && decide (iv ≤ 15) && decide (per ≤ 7)
  | .samples _ => true

end Sys2Proof
end

