-- ==== Sys2Proof/Machine/Assembler.lean ====
section
/-! DEFINITION. The assembler (30_encoding.md R50, R51): what a line expands to, the words it assembles to, and its text. -/

namespace Sys2Proof.Machine

/-! ## Lines -/

/-- `SETENV` with its operands as numbers. -/
def setenvOf (iv : Nat) (dir : Direction) (per : Nat) : Instr :=
  .setenv (BitVec.ofNat 4 iv) dir (BitVec.ofNat 3 per)

/-- The largest cycle count of one UPDATE (R43, R51). -/
def maxUpdate : Nat := 268435455

/-- `RUN n` (R51): `q` copies of the largest UPDATE, and one of what is left when something is. -/
def runExpansion (n : Nat) : List Instr :=
  List.replicate (n / maxUpdate) (.update (BitVec.ofNat 28 maxUpdate)) ++
    (if 0 < n % maxUpdate then [.update (BitVec.ofNat 28 (n % maxUpdate))] else [])

/-- The commands a line stands for (R50, R51), its operands in range. -/
def expandLine : Line → List Instr
  | .setfreq f => [.setfreq (BitVec.ofNat 11 f)]
  | .setduty d => [.setduty (BitVec.ofNat 2 d)]
  | .setenv iv dir per => [setenvOf iv dir per]
  | .trig => [.trig]
  | .update n => [.update (BitVec.ofNat 28 n)]
  | .sample => [.sample]
  | .rdsample => [.rdsample]
  | .rdvol => [.rdvol]
  | .nop => [.update 0]
  | .run n => runExpansion n
  | .note f d iv dir per => [.setfreq (BitVec.ofNat 11 f), .setduty (BitVec.ofNat 2 d), setenvOf iv dir per, .trig]
  | .samples k => List.replicate k .sample

/-- The words of a line. "An assembler refuses an operand outside its range rather than truncating it" (R50). -/
def assembleLine (l : Line) : Option (List Word) :=
  if l.wellFormed then some ((expandLine l).map encode) else none

/-! ## Text: one command per line, mnemonic then operands separated by commas (R50, notes/assumptions/21.md) -/

/-- Blanks between the parts of a line. -/
def isBlank (c : Char) : Bool := c == ' ' || c == '\t' || c == '\r'

/-- Text without the blanks at its ends. -/
def trimBlanks (t : List Char) : List Char := ((t.dropWhile isBlank).reverse.dropWhile isBlank).reverse

/-- Text cut at every `sep`. -/
def splitAtChar (sep : Char) : List Char → List (List Char)
  | [] => [[]]
  | c :: rest =>
    match splitAtChar sep rest with
    | [] => [[c]]
    | part :: parts => if c == sep then [] :: part :: parts else (c :: part) :: parts

/-- A decimal or hexadecimal digit. -/
def digitOf (base : Nat) (c : Char) : Option Nat :=
  let n := c.toNat
  let d := if 48 ≤ n ∧ n ≤ 57 then n - 48
    else if 97 ≤ n ∧ n ≤ 102 then n - 87
    else if 65 ≤ n ∧ n ≤ 70 then n - 55
    else 16
  if d < base then some d else none

/-- Digits, the most significant first, after `acc`. -/
def digitsOf (base : Nat) : Nat → List Char → Option Nat
  | acc, [] => some acc
  | acc, c :: rest =>
    match digitOf base c with
    | some d => digitsOf base (acc * base + d) rest
    | none => none

/-- "numbers are decimal or `0x` hexadecimal" (R50). -/
def numberOf : List Char → Option Nat
  | [] => none
  | '0' :: 'x' :: [] => none
  | '0' :: 'x' :: rest => digitsOf 16 0 rest
  | t => digitsOf 10 0 t

/-- "dir is `dec` (0) or `inc` (1)" (R50). -/
def directionOfText (t : List Char) : Option Direction :=
  if t = ['d', 'e', 'c'] then some .decrease
  else if t = ['i', 'n', 'c'] then some .increase
  else none

/-- A command from its mnemonic and its operands (R50, R51). -/
def lineOfParts (mnemonic : List Char) (operands : List (List Char)) : Option Line :=
  if mnemonic = ['S', 'E', 'T', 'F', 'R', 'E', 'Q'] then
    match operands with
    | [f] => do return .setfreq (← numberOf f)
    | _ => none
  else if mnemonic = ['S', 'E', 'T', 'D', 'U', 'T', 'Y'] then
    match operands with
    | [d] => do return .setduty (← numberOf d)
    | _ => none
  else if mnemonic = ['S', 'E', 'T', 'E', 'N', 'V'] then
    match operands with
    | [iv, dir, per] => do return .setenv (← numberOf iv) (← directionOfText dir) (← numberOf per)
    | _ => none
  else if mnemonic = ['T', 'R', 'I', 'G'] then
    match operands with
    | [] => some .trig
    | _ => none
  else if mnemonic = ['U', 'P', 'D', 'A', 'T', 'E'] then
    match operands with
    | [n] => do return .update (← numberOf n)
    | _ => none
  else if mnemonic = ['S', 'A', 'M', 'P', 'L', 'E'] then
    match operands with
    | [] => some .sample
    | _ => none
  else if mnemonic = ['R', 'D', 'S', 'A', 'M', 'P', 'L', 'E'] then
    match operands with
    | [] => some .rdsample
    | _ => none
  else if mnemonic = ['R', 'D', 'V', 'O', 'L'] then
    match operands with
    | [] => some .rdvol
    | _ => none
  else if mnemonic = ['N', 'O', 'P'] then
    match operands with
    | [] => some .nop
    | _ => none
  else if mnemonic = ['R', 'U', 'N'] then
    match operands with
    | [n] => do return .run (← numberOf n)
    | _ => none
  else if mnemonic = ['N', 'O', 'T', 'E'] then
    match operands with
    | [f, d, iv, dir, per] =>
      do return .note (← numberOf f) (← numberOf d) (← numberOf iv) (← directionOfText dir) (← numberOf per)
    | _ => none
  else if mnemonic = ['S', 'A', 'M', 'P', 'L', 'E', 'S'] then
    match operands with
    | [k] => do return .samples (← numberOf k)
    | _ => none
  else none

/-- The words of one line of text: none where it is empty or only a comment ("`;` starts a comment", R50). -/
def assembleText (t : List Char) : Option (List Word) :=
  let code := trimBlanks (t.takeWhile fun c => !(c == ';'))
  if code = [] then some []
  else
    let rest := trimBlanks (code.dropWhile fun c => !isBlank c)
    let operands := if rest = [] then [] else (splitAtChar ',' rest).map trimBlanks
    match lineOfParts (code.takeWhile fun c => !isBlank c) operands with
    | some l => assembleLine l
    | none => none

/-- The words of a text, one command per line (R50); none where some line is refused. -/
def assembleSource (t : List Char) : Option (List Word) :=
  ((splitAtChar '\n' t).mapM assembleText).map List.flatten

end Sys2Proof.Machine
end

