-- ==== Sys2Proof/Safety.lean ====
section
/-! DEFINITION. The terms claims use: runs, the invariants of 10_state.md R28 and 70_reset_and_hazards.md R106, the launch premise of R96, the clock cycle by cycle, and the closed forms the rules give. -/

namespace Sys2Proof.Machine

/-! ## Runs -/

/-- Execute commands one after another (R34), stopping at the first that has no meaning. -/
def execAll : List Instr → State → Result
  | [], s => .next s
  | i :: is, s =>
    match exec i s with
    | .next t => execAll is t
    | .fault r => .fault r
    | .refused r => .refused r

/-- A safe run: every command completes and none faults. -/
def SafeRun (is : List Instr) (s : State) : Prop := ∃ t, execAll is s = .next t ∧ t.fault = none

/-- Two states whose block state (10_state.md R12 to R26), parameters and master time agree; what stands at the ports may
differ. -/
def SameBlock (s t : State) : Prop :=
  s.cfg = t.cfg ∧ s.fs = t.fs ∧ s.ch = t.ch ∧ s.env = t.env ∧ s.acc = t.acc ∧ s.fault = t.fault ∧ s.time = t.time

/-- Master cycles an UPDATE names; 0 for any other command. -/
def updateCount : Instr → Nat
  | .update n => n.toNat
  | _ => 0

/-- How many SAMPLE commands a list holds. -/
def sampleCount (is : List Instr) : Nat := is.count .sample

/-! ## Words of one opcode -/

/-- Every word of opcode `op` decodes to one of the commands `own`, or is a reserved encoding: with no fault latched it
raises code 1 and has no other effect (R46). -/
def OwnOrReserved (op : BitVec 4) (own : Instr → Prop) : Prop :=
  ∀ w : Word, opcodeOf w = op →
    (∃ i, own i ∧ decode w = .command i) ∨
      ∀ s : State, s.fault = none →
        runWord w s = .next { s with fault := some .reservedEncoding,
                                     responses := s.responses ++ [.faulted .reservedEncoding] }

/-! ## Invariants -/

/-- What R28 says holds "in every state reachable from reset by commands". The ranges of `S.fs.step`, `S.ch.phase`,
`S.ch.duty`, `S.ch.sample`, `S.env.volume` and `S.env.counter` hold by type. The clause about a zero `S.ch.counter` is
R28's without "no TRIG": as worded it fails after `TRIG; SETFREQ f` from reset (notes/assumptions/19.md). The clause
about `S.env.counter` is R55's ("a model may assert it"). -/
structure Inv (s : State) : Prop where
  cfg_wf : s.cfg.wf = true
  fs_counter_pos : 1 ≤ s.fs.counter
  fs_counter_le : s.fs.counter ≤ s.cfg.fsDiv
  period_range : s.ch.period = 0 ∨ ∃ f, 1 ≤ f ∧ f ≤ 2047 ∧ s.ch.period = (2048 - f) * 4
  counter_le : s.ch.counter ≤ 8188
  counter_zero : s.ch.counter = 0 → s.ch.period = 0 ∨ s.time = 0
  time_period : 0 < s.time → 0 < s.ch.period
  env_counter : s.env.updating = true → 1 ≤ s.env.counter.val
  acc_lt : s.acc < s.cfg.outputHz

/-- Where the frame sequencer stands at master time T (R106): boundary number b falls at `T = b * FS_DIV`. -/
def Timeline (s : State) : Prop :=
  s.fs.counter = s.cfg.fsDiv - s.time % s.cfg.fsDiv ∧ s.fs.step.val = s.time / s.cfg.fsDiv % 8

/-- The launch premise of R96 for claims about a sounding channel. -/
def Triggered (s : State) : Prop :=
  s.fault = none ∧ 0 < s.ch.period ∧ 0 < s.ch.counter ∧ s.env.updating = true ∧ s.trigFresh = true

/-! ## The clock, cycle by cycle -/

/-- One master cycle of the channel: a zero counter crosses at once (R97), then one cycle is consumed, and a counter that
reaches 0 crosses (R64, R65). -/
def channelCycle (c : Config) (volume : Fin 16) (ch : Channel) : Channel :=
  let ch₀ := if ch.counter = 0 then crossing c volume ch else ch
  let ch₁ := { ch₀ with counter := ch₀.counter - 1 }
  if ch₁.counter = 0 then crossing c volume ch₁ else ch₁

/-- One master cycle of the whole block, in the order of R71: channel, frame-sequencer counter, boundary. -/
def masterCycle (s : State) : State :=
  let s₁ := { s with ch := channelCycle s.cfg s.env.volume s.ch, fs := { s.fs with counter := s.fs.counter - 1 } }
  if s₁.fs.counter = 0 then fsBoundary s₁ else s₁

/-! ## Closed forms -/

/-- How often a down-counter at `c`, reloaded with `p`, reaches 0 in `n` units (R64): "`k = 0` crossings if `n < c`, else
`k = 1 + (n - c) div P`". -/
def expiries (c p n : Nat) : Nat := if n < c then 0 else 1 + (n - c) / p

/-- Where that down-counter stands then (R64): "`c - n` if `n < c`, else `P - ((n - c) mod P)`". -/
def remaining (c p n : Nat) : Nat := if n < c then c - n else p - (n - c) % p

/-- Envelope ticks among `b` boundaries that follow step index `k` (R69, R70): the indices dispatched are
`k + 1, …, k + b` when the event comes after the advance and `k, …, k + b - 1` when it comes before, and every index 7
modulo 8 is a tick. -/
def ticksAmong (afterAdvance : Bool) (k b : Nat) : Nat :=
  if afterAdvance then (k + b + 1) / 8 - (k + 1) / 8 else (k + b) / 8 - k / 8

end Sys2Proof.Machine
end

