-- ==== Sys2Proof/Certificates/Slice0/Obligations.lean ====
section
/-! DEFINITION. The statements for the provers, rule by rule of spec/. -/

open Sys2Proof Sys2Proof.Machine

/-! ## Encoding (30_encoding.md) and transport (20_memory.md) -/

/-- R48: `Decode`, restated on the word as a number (opcode `w div 2^28`, payload `w mod 2^28`), and that executing
`Reserved` is fault code 1. -/
def Obligations.DecodeFollowsTheRule : Prop :=
  (∀ w : Word,
    let op := w.toNat / 2 ^ 28
    let low := w.toNat % 2 ^ 28
    decode w =
      if op = 1 ∧ low / 2 ^ 11 = 0 then .command (.setfreq (BitVec.ofNat 11 (low % 2 ^ 11)))
      else if op = 2 ∧ low / 2 ^ 2 = 0 then .command (.setduty (BitVec.ofNat 2 (low % 2 ^ 2)))
      else if op = 3 ∧ low / 2 ^ 8 = 0 then
        .command (.setenv (BitVec.ofNat 4 (low / 2 ^ 4 % 2 ^ 4))
          (if low / 2 ^ 3 % 2 = 1 then .increase else .decrease) (BitVec.ofNat 3 (low % 2 ^ 3)))
      else if op = 4 ∧ low = 0 then .command .trig
      else if op = 5 then .command (.update (BitVec.ofNat 28 low))
      else if op = 6 ∧ low = 0 then .command .sample
      else if op = 7 ∧ low = 0 then .command .rdsample
      else if op = 8 ∧ low = 0 then .command .rdvol
      else .reserved) ∧
    ∀ (w : Word) (s : State), s.fault = none → decode w = .reserved →
      runWord w s = .next { s with fault := some .reservedEncoding,
                                   responses := s.responses ++ [.faulted .reservedEncoding] }

/-- R48, R50: decoding a command's word gives the command back, at every value of every operand. -/
def Obligations.DecodeOfEncodeIsTheCommand : Prop := ∀ i : Instr, decode (encode i) = .command i

/-- R45, R48: a word that decodes to a command is that command's one word. -/
def Obligations.EncodeOfDecodeIsTheWord : Prop := ∀ (w : Word) (i : Instr), decode w = .command i → encode i = w

/-- R45: the opcode map, and that a word selects a mnemonic exactly when `(w AND mask) = match`. -/
def Obligations.MaskAndMatchSelectTheMnemonic : Prop :=
  opcodeMap = [⟨0xFFFFF800, 0x10000000⟩, ⟨0xFFFFFFFC, 0x20000000⟩, ⟨0xFFFFFF00, 0x30000000⟩, ⟨0xFFFFFFFF, 0x40000000⟩,
      ⟨0xF0000000, 0x50000000⟩, ⟨0xFFFFFFFF, 0x60000000⟩, ⟨0xFFFFFFFF, 0x70000000⟩, ⟨0xFFFFFFFF, 0x80000000⟩] ∧
    ∀ w : Word,
      (w &&& 0xFFFFF800 = 0x10000000 ↔ ∃ f, decode w = .command (.setfreq f)) ∧
      (w &&& 0xFFFFFFFC = 0x20000000 ↔ ∃ d, decode w = .command (.setduty d)) ∧
      (w &&& 0xFFFFFF00 = 0x30000000 ↔ ∃ iv dir per, decode w = .command (.setenv iv dir per)) ∧
      (w &&& 0xFFFFFFFF = 0x40000000 ↔ decode w = .command .trig) ∧
      (w &&& 0xF0000000 = 0x50000000 ↔ ∃ n, decode w = .command (.update n)) ∧
      (w &&& 0xFFFFFFFF = 0x60000000 ↔ decode w = .command .sample) ∧
      (w &&& 0xFFFFFFFF = 0x70000000 ↔ decode w = .command .rdsample) ∧
      (w &&& 0xFFFFFFFF = 0x80000000 ↔ decode w = .command .rdvol)

/-- R46, R47: exactly the words of a reserved opcode, and the words of opcodes 1 to 8 that miss their row's mask, are
reserved; executing one with no fault latched raises code 1 and does nothing else. -/
def Obligations.ReservedWordsRaiseCodeOne : Prop :=
  (∀ w : Word, decode w = .reserved ↔
    opcodeOf w = 0#4 ∨ 9 ≤ (opcodeOf w).toNat ∨
      ∃ r ∈ opcodeMap, opcodeOf w = opcodeOf r.value ∧ w &&& r.mask ≠ r.value) ∧
    ∀ (w : Word) (s : State), s.fault = none → decode w = .reserved →
      runWord w s = .next { s with fault := some .reservedEncoding,
                                   responses := s.responses ++ [.faulted .reservedEncoding] }

/-- 95_test_vectors.md, "Decode": words written out from the field layout table, valid and reserved. -/
def Obligations.SampleWordsDecode : Prop :=
  decode 0x10000783 = .command (.setfreq 0x783) ∧ decode 0x20000003 = .command (.setduty 3) ∧
    decode 0x300000F3 = .command (.setenv 15 .decrease 3) ∧ decode 0x40000000 = .command .trig ∧
    decode 0x5FFFFFFF = .command (.update 268435455) ∧ decode 0x60000000 = .command .sample ∧
    decode 0x70000000 = .command .rdsample ∧ decode 0x80000000 = .command .rdvol ∧
    decode 0x10000800 = .reserved ∧ decode 0x14000783 = .reserved ∧ decode 0x3000010F = .reserved ∧
    decode 0x00000000 = .reserved ∧ decode 0x90000000 = .reserved

/-- R50: the words of the operand table for operands in range, and no word for an operand out of range. -/
def Obligations.AssemblerFollowsTheOperandTable : Prop :=
  (∀ f, f ≤ 2047 → assembleLine (.setfreq f) = some [0x10000000#32 ||| BitVec.ofNat 32 f]) ∧
    (∀ d, d ≤ 3 → assembleLine (.setduty d) = some [0x20000000#32 ||| BitVec.ofNat 32 d]) ∧
    (∀ iv dir per, iv ≤ 15 → per ≤ 7 → assembleLine (.setenv iv dir per) =
      some [0x30000000#32 ||| (BitVec.ofNat 32 iv <<< 4) |||
        (BitVec.ofNat 32 (if dir = .increase then 1 else 0) <<< 3) ||| BitVec.ofNat 32 per]) ∧
    (∀ n, n ≤ 268435455 → assembleLine (.update n) = some [0x50000000#32 ||| BitVec.ofNat 32 n]) ∧
    assembleLine .trig = some [0x40000000] ∧ assembleLine .sample = some [0x60000000] ∧
    assembleLine .rdsample = some [0x70000000] ∧ assembleLine .rdvol = some [0x80000000] ∧
    (∀ f, 2047 < f → assembleLine (.setfreq f) = none) ∧ (∀ d, 3 < d → assembleLine (.setduty d) = none) ∧
    (∀ iv dir per, 15 < iv ∨ 7 < per → assembleLine (.setenv iv dir per) = none) ∧
    ∀ n, 268435455 < n → assembleLine (.update n) = none

/-- R31, R32: a word travels least significant byte first, the words of a byte transport are those sent, and 1 to 3
bytes left over present no command and change no state. -/
def Obligations.TransportCarriesWholeLittleEndianWords : Prop :=
  (∀ b0 b1 b2 b3 : Byte, wordsOfBytes [b0, b1, b2, b3] =
    [BitVec.ofNat 32 (b0.toNat + 2 ^ 8 * b1.toNat + 2 ^ 16 * b2.toNat + 2 ^ 24 * b3.toNat)]) ∧
    (∀ (ws : List Word) (tail : List Byte), tail.length < 4 → wordsOfBytes (ws.flatMap bytesOfWord ++ tail) = ws) ∧
    ∀ (s : State) (tail : List Byte), tail.length < 4 → s.issueBytes tail = s

/-! ## Commands: result, frame, completion -/

/-- R61: SETFREQ. With f = 0 it raises code 2; otherwise it writes the period and nothing else; under a latched fault
it is ignored. -/
def Obligations.SetfreqWritesThePeriod : Prop :=
  ∀ (f : BitVec 11) (s : State),
    encode (.setfreq f) = 0x10000000#32 ||| f.setWidth 32 ∧ OwnOrReserved 1 (fun i => ∃ g, i = .setfreq g) ∧
    (s.fault = none → f ≠ 0 → exec (.setfreq f) s =
      .next { s with ch := { s.ch with period := (2048 - f.toNat) * 4 }, responses := s.responses ++ [.ack] }) ∧
    (s.fault = none → f = 0 → exec (.setfreq f) s =
      .next { s with fault := some .invalidFrequency, responses := s.responses ++ [.faulted .invalidFrequency] }) ∧
    ∀ c, s.fault = some c → exec (.setfreq f) s = .next { s with responses := s.responses ++ [.faulted c] }

/-- R62: SETDUTY writes the duty index and nothing else; under a latched fault it is ignored. -/
def Obligations.SetdutyWritesTheDutyIndex : Prop :=
  ∀ (d : BitVec 2) (s : State),
    encode (.setduty d) = 0x20000000#32 ||| d.setWidth 32 ∧ OwnOrReserved 2 (fun i => ∃ e, i = .setduty e) ∧
    (s.fault = none → ∃ t, exec (.setduty d) s = .next t ∧ t.ch.duty.val = d.toNat ∧
      t = { s with ch := { s.ch with duty := t.ch.duty }, responses := s.responses ++ [.ack] }) ∧
    ∀ c, s.fault = some c → exec (.setduty d) s = .next { s with responses := s.responses ++ [.faulted c] }

/-- R53: SETENV writes the three configuration fields of the envelope and nothing else of the block; under a latched
fault it is ignored. It says nothing of the ghost `trigFresh` (notes/assumptions/6.md), which is no state of the block. -/
def Obligations.SetenvWritesTheConfiguration : Prop :=
  ∀ (iv : BitVec 4) (dir : Direction) (per : BitVec 3) (s : State),
    encode (.setenv iv dir per) = 0x30000000#32 ||| (iv.setWidth 32 <<< 4) |||
      ((if dir = .increase then 1#32 else 0#32) <<< 3) ||| per.setWidth 32 ∧
    OwnOrReserved 3 (fun i => ∃ iv' dir' per', i = .setenv iv' dir' per') ∧
    (s.fault = none → ∃ t, exec (.setenv iv dir per) s = .next t ∧
      t.env.initial.val = iv.toNat ∧ t.env.dir = dir ∧ t.env.period.val = per.toNat ∧
      t = { s with env := { s.env with initial := t.env.initial, dir := t.env.dir, period := t.env.period },
                   trigFresh := t.trigFresh, responses := s.responses ++ [.ack] }) ∧
    ∀ c, s.fault = some c → exec (.setenv iv dir per) s = .next { s with responses := s.responses ++ [.faulted c] }

/-- R63, R54: TRIG loads the volume and the envelope counter (8 when the period is 0), sets the flag, reloads the period
counter, and changes nothing else of the block: not the phase, the sample or the frame sequencer. It says nothing of the
ghost `trigFresh` (notes/assumptions/6.md), which is no state of the block. -/
def Obligations.TrigRestartsEnvelopeAndPeriod : Prop :=
  ∀ s : State,
    encode .trig = 0x40000000 ∧ OwnOrReserved 4 (fun i => i = .trig) ∧
    (s.fault = none → ∃ t, exec .trig s = .next t ∧ t.env.volume = s.env.initial ∧
      t.env.counter.val = (if 0 < s.env.period.val then s.env.period.val else 8) ∧
      t = { s with env := { s.env with volume := s.env.initial, counter := t.env.counter, updating := true },
                   ch := { s.ch with counter := s.ch.period }, trigFresh := t.trigFresh,
                   responses := s.responses ++ [.ack] }) ∧
    ∀ c, s.fault = some c → exec .trig s = .next { s with responses := s.responses ++ [.faulted c] }

/-- R66: RDSAMPLE returns the last computed sample and writes no state. -/
def Obligations.RdsampleReturnsTheSample : Prop :=
  ∀ s : State,
    encode .rdsample = 0x70000000 ∧ OwnOrReserved 7 (fun i => i = .rdsample) ∧
    (s.fault = none → exec .rdsample s = .next { s with responses := s.responses ++ [.value s.ch.sample] }) ∧
    ∀ c, s.fault = some c → exec .rdsample s = .next { s with responses := s.responses ++ [.faulted c] }

/-- R57: RDVOL returns the live volume and writes no state. -/
def Obligations.RdvolReturnsTheVolume : Prop :=
  ∀ s : State,
    encode .rdvol = 0x80000000 ∧ OwnOrReserved 8 (fun i => i = .rdvol) ∧
    (s.fault = none → exec .rdvol s = .next { s with responses := s.responses ++ [.value s.env.volume] }) ∧
    ∀ c, s.fault = some c → exec .rdvol s = .next { s with responses := s.responses ++ [.faulted c] }

/-- R67: UPDATE runs the controller for n cycles, faults with code 3 where cycles would be consumed with no frequency
written, is ignored under a latched fault; no word of opcode 5 is reserved. -/
def Obligations.UpdateRunsTheController : Prop :=
  ∀ (n : BitVec 28) (s : State),
    encode (.update n) = 0x50000000#32 ||| n.setWidth 32 ∧
    (∀ w : Word, opcodeOf w = 5 → ∃ m, decode w = .command (.update m)) ∧
    (s.fault = none → n = 0 ∨ 0 < s.ch.period → exec (.update n) s =
      .next { ctlAdvance n.toNat s with time := s.time + n.toNat, responses := s.responses ++ [.ack] }) ∧
    (s.fault = none → n ≠ 0 → s.ch.period = 0 → exec (.update n) s =
      .next { s with fault := some .channelUnconfigured,
                     responses := s.responses ++ [.faulted .channelUnconfigured] }) ∧
    ∀ c, s.fault = some c → exec (.update n) s = .next { s with responses := s.responses ++ [.faulted c] }

/-- R74, which the spec derives from R67 and R68: `UPDATE 0` changes no state, raises no fault (even with no frequency written), and responds `Ack`. -/
def Obligations.UpdateZeroChangesNothing : Prop :=
  (∀ s : State, s.fault = none → exec (.update 0) s = .next { s with responses := s.responses ++ [.ack] }) ∧
    (∀ s : State, ctlAdvance 0 s = s) ∧ ∀ (c : Config) (v : Fin 16) (ch : Channel), chAdvance c v 0 ch = ch

/-- R75, R76, R77: SAMPLE consumes `(acc + CLOCK_HZ) div OUTPUT_HZ` cycles, keeps the remainder, and emits the sample as
it stands after the advance, twice; it faults with code 3 and emits nothing where cycles would be consumed with no
frequency written; under a latched fault it is ignored. -/
def Obligations.SampleAdvancesAndEmits : Prop :=
  ∀ s : State,
    encode .sample = 0x60000000 ∧ OwnOrReserved 6 (fun i => i = .sample) ∧
    (s.fault = none → (s.acc + s.cfg.clockHz) / s.cfg.outputHz = 0 ∨ 0 < s.ch.period →
      let whole := (s.acc + s.cfg.clockHz) / s.cfg.outputHz
      let u := ctlAdvance whole s
      exec .sample s = .next { u with acc := (s.acc + s.cfg.clockHz) % s.cfg.outputHz, time := s.time + whole,
                                      frames := s.frames ++ [⟨u.ch.sample, u.ch.sample⟩],
                                      responses := s.responses ++ [.ack] }) ∧
    (s.fault = none → (s.acc + s.cfg.clockHz) / s.cfg.outputHz ≠ 0 → s.ch.period = 0 → exec .sample s =
      .next { s with fault := some .channelUnconfigured,
                     responses := s.responses ++ [.faulted .channelUnconfigured] }) ∧
    ∀ c, s.fault = some c → exec .sample s = .next { s with responses := s.responses ++ [.faulted c] }

/-- R68, R64, R69, R55: the frame of the controller's advance. It changes the frame sequencer, the period counter, the
phase, the sample, the volume, the envelope counter and the flag, and nothing else. -/
def Obligations.AdvanceFrame : Prop :=
  ∀ (n : Nat) (s : State),
    let t := ctlAdvance n s
    t = { s with fs := t.fs
                 ch := { s.ch with counter := t.ch.counter, phase := t.ch.phase, sample := t.ch.sample }
                 env := { s.env with volume := t.env.volume, counter := t.env.counter, updating := t.env.updating } }

/-- R13, R14, R16 to R25: which commands write which element; and what moves the model's ghost `trigFresh`
(notes/assumptions/6.md). -/
def Obligations.OnlyTheNamedCommandsWrite : Prop :=
  ∀ (i : Instr) (s t : State), exec i s = .next t →
    t.cfg = s.cfg ∧ t.inbox = s.inbox ∧
    (t.ch.period ≠ s.ch.period → ∃ f, i = .setfreq f) ∧
    (t.ch.duty ≠ s.ch.duty → ∃ d, i = .setduty d) ∧
    (t.ch.counter ≠ s.ch.counter → i = .trig ∨ i = .sample ∨ ∃ n, i = .update n) ∧
    (t.ch.phase ≠ s.ch.phase ∨ t.ch.sample ≠ s.ch.sample ∨ t.fs ≠ s.fs ∨ t.time ≠ s.time →
      i = .sample ∨ ∃ n, i = .update n) ∧
    (t.env.initial ≠ s.env.initial ∨ t.env.dir ≠ s.env.dir ∨ t.env.period ≠ s.env.period →
      ∃ iv dir per, i = .setenv iv dir per) ∧
    (t.env.volume ≠ s.env.volume ∨ t.env.counter ≠ s.env.counter ∨ t.env.updating ≠ s.env.updating →
      i = .trig ∨ i = .sample ∨ ∃ n, i = .update n) ∧
    (s.env.updating = false → t.env.updating = true → i = .trig) ∧
    (t.acc ≠ s.acc ∨ t.frames ≠ s.frames → i = .sample) ∧
    (t.trigFresh ≠ s.trigFresh → (i = .trig ∧ t.trigFresh = true) ∨
      ∃ iv dir per, i = .setenv iv dir per ∧ t.trigFresh = false)

/-! ## Envelope (41_envelope.md) -/

/-- R55: the envelope tick: a no-op where the period is 0 or the envelope is frozen; otherwise the counter goes down,
and on reaching 0 it is reloaded, the volume moves by one per direction, clamped to 0..15, and a rail freezes it. -/
def Obligations.EnvelopeTickFollowsTheRule : Prop :=
  ∀ e : Envelope,
    (e.period.val = 0 ∨ e.updating = false → envTick e = e) ∧
    (e.period.val ≠ 0 → e.updating = true → 2 ≤ e.counter.val →
      (envTick e).counter.val = e.counter.val - 1 ∧ envTick e = { e with counter := (envTick e).counter }) ∧
    (e.period.val ≠ 0 → e.updating = true → e.counter.val = 1 →
      let t := envTick e
      (t.volume.val : Int) = max 0 (min 15 ((e.volume.val : Int) + if e.dir = .increase then 1 else -1)) ∧
      t.counter.val = e.period.val ∧
      t.updating = !(decide (t.volume.val = 0) || decide (t.volume.val = 15)) ∧
      t = { e with volume := t.volume, counter := t.counter, updating := t.updating })

/-- R56: repeated ticks move the volume toward the rail of the direction, one per expiry of the envelope counter, and
freeze it there for good. -/
def Obligations.EnvelopeConvergesAndFreezes : Prop :=
  ∀ (e : Envelope) (k : Nat), e.period.val ≠ 0 → e.updating = true → 1 ≤ e.counter.val →
    let steps := expiries e.counter.val e.period.val k
    (e.dir = .decrease → (envTick^[k] e).volume.val = e.volume.val - steps ∧
      ((envTick^[k] e).updating = false ↔ 1 ≤ steps ∧ e.volume.val ≤ steps)) ∧
    (e.dir = .increase → (envTick^[k] e).volume.val = min 15 (e.volume.val + steps) ∧
      ((envTick^[k] e).updating = false ↔ 1 ≤ steps ∧ 15 ≤ e.volume.val + steps))

/-- R56, R55: a frozen envelope, and one whose period is 0, is left as it is by any number of cycles. -/
def Obligations.StillEnvelopeIsLeftAlone : Prop :=
  ∀ (n : Nat) (s : State), s.env.updating = false ∨ s.env.period.val = 0 → (ctlAdvance n s).env = s.env

/-! ## Square channel (42_square_channel.md) -/

/-- R59: the period is a multiple of 4 in 4..8188 for f in 1..2047, and strictly decreasing in f. -/
def Obligations.PeriodFunctionRangeAndOrder : Prop :=
  (∀ f : BitVec 11, f ≠ 0 → periodOf f = (2048 - f.toNat) * 4 ∧ 4 ≤ periodOf f ∧ periodOf f ≤ 8188 ∧
      periodOf f % 4 = 0) ∧
    (∀ f g : BitVec 11, f.toNat < g.toNat → periodOf g < periodOf f) ∧
    periodOf 1 = 8188 ∧ periodOf 1024 = 4096 ∧ periodOf 0x783 = 500 ∧ periodOf 0x4EC = 3152 ∧ periodOf 2047 = 4

/-- R60: the duty bit is the table's entry, the amplitude is 0 where the duty bit is low and the full volume where it is
high, and over eight phases row d of any duty table that meets R6 is high for 1, 2, 4 or 6 of them. -/
def Obligations.DutyRowsAreHighOneTwoFourSix : Prop :=
  (∀ (c : Config) (d : Fin 4) (p : Fin 8) (v : Fin 16),
    dutyBit c d p = (c.dutyTable[d])[p] ∧ (amplitude c d p v).val = (dutyBit c d p).toNat * v.val) ∧
    ∀ (c : Config) (d : Fin 4), c.wf = true →
      ((List.finRange 8).filter fun p => dutyBit c d p).length = [1, 2, 4, 6][d]

/-- R65: a zero-crossing reloads the counter, advances the phase modulo 8, and computes the sample at the new phase;
it leaves the period and the duty index. -/
def Obligations.CrossingFollowsTheRule : Prop :=
  ∀ (c : Config) (v : Fin 16) (ch : Channel),
    let t := crossing c v ch
    t.counter = ch.period ∧ t.phase.val = (ch.phase.val + 1) % 8 ∧
      t.sample.val = (dutyBit c ch.duty t.phase).toNat * v.val ∧ t.period = ch.period ∧ t.duty = ch.duty

/-- The closed form the spec derives from R64 and R65: with counter c ≥ 1 and period P > 0, n cycles make `expiries c P n` crossings; the counter is
`remaining c P n`, the phase has advanced by the crossings modulo 8, and the sample is that of the last crossing. -/
def Obligations.ChannelAdvanceClosedForm : Prop :=
  ∀ (c : Config) (v : Fin 16) (n : Nat) (ch : Channel), 1 ≤ ch.counter → 0 < ch.period →
    let k := expiries ch.counter ch.period n
    let t := chAdvance c v n ch
    t.counter = remaining ch.counter ch.period n ∧ t.phase.val = (ch.phase.val + k) % 8 ∧
      t.sample = (if k = 0 then ch.sample else amplitude c ch.duty t.phase v) ∧
      t.period = ch.period ∧ t.duty = ch.duty

/-- R97, D22: with a period written and a zero counter, the first positive advance makes one crossing at once, before it
consumes a cycle, then continues as if triggered at that instant. `Inv` is the model's reading of R28
(notes/assumptions/19.md). -/
def Obligations.ZeroCounterCrossesAtOnce : Prop :=
  ∀ (n : Nat) (s : State), Inv s → s.ch.counter = 0 → 0 < s.ch.period → 0 < n →
    ctlAdvance n s = ctlAdvance n { s with ch := crossing s.cfg s.env.volume s.ch } ∧
      (crossing s.cfg s.env.volume s.ch).counter = s.ch.period

/-- 43_scheduler.md, "Phase period": a channel with counter 1..P is back at the same counter and phase after exactly
8 P cycles, whatever the frame sequencer and the envelope do. -/
def Obligations.EightPeriodsRestoreThePhase : Prop :=
  ∀ s : State, Inv s → 1 ≤ s.ch.counter → s.ch.counter ≤ s.ch.period →
    (ctlAdvance (8 * s.ch.period) s).ch.counter = s.ch.counter ∧
      (ctlAdvance (8 * s.ch.period) s).ch.phase = s.ch.phase

/-- R98, R100, R101, which the spec derives from R61, R62 and R65: until the next crossing the channel only counts down, so a new period, duty index or volume does
not reach the output. -/
def Obligations.OutputHoldsUntilTheNextCrossing : Prop :=
  ∀ (n : Nat) (s : State), Inv s → n < s.ch.counter →
    (ctlAdvance n s).ch = { s.ch with counter := s.ch.counter - n }

/-! ## Scheduler and frame sequencer (43_scheduler.md) -/

/-- R68: the scheduling loop. With no cycles left it ends; otherwise it takes `step = min(rem, S.fs.counter)`, at least 1,
advances the channel by `step`, lowers the counter by `step`, runs the boundary where it is 0, and goes on with the rest
of the budget. -/
def Obligations.ControllerLoopTakesOneSubStep : Prop :=
  (∀ s : State, ctlAdvance 0 s = s) ∧
    ∀ (n : Nat) (s : State), Inv s → 0 < n →
      let step := min n s.fs.counter
      let u := { s with ch := chAdvance s.cfg s.env.volume step s.ch,
                        fs := { s.fs with counter := s.fs.counter - step } }
      1 ≤ step ∧ ctlAdvance n s = ctlAdvance (n - step) (if u.fs.counter = 0 then fsBoundary u else u)

/-- R69, R70: a boundary reloads the counter with FS_DIV, advances the step index modulo 8, and ticks the envelope when
the index it dispatches (the new one or the old one, as the parameter says) is 7; it changes nothing else. A sub-step of
exactly the counter's cycles runs the boundary, so the counter it leaves is FS_DIV; a shorter one lowers the counter and
leaves the step index and the envelope. -/
def Obligations.BoundaryReloadsAndDispatches : Prop :=
  (∀ s : State,
    let t := fsBoundary s
    t.fs.counter = s.cfg.fsDiv ∧ t.fs.step.val = (s.fs.step.val + 1) % 8 ∧
      t.env = (if (if s.cfg.fsEventAfterAdvance then t.fs.step else s.fs.step).val = 7 then envTick s.env
        else s.env) ∧
      t = { s with fs := t.fs, env := t.env }) ∧
    (∀ s : State,
      subStep s.fs.counter s = fsBoundary
        { s with ch := chAdvance s.cfg s.env.volume s.fs.counter s.ch, fs := { s.fs with counter := 0 } } ∧
      (subStep s.fs.counter s).fs.counter = s.cfg.fsDiv) ∧
    ∀ (n : Nat) (s : State), n < s.fs.counter →
      (subStep n s).fs.counter = s.fs.counter - n ∧ (subStep n s).fs.step = s.fs.step ∧ (subStep n s).env = s.env

/-- R71, and R102, which the spec derives from it: a crossing that falls no later than the next boundary samples the volume before that boundary's envelope
tick, even on the same master cycle; the tick comes after it. -/
def Obligations.CrossingSeesTheVolumeBeforeTheTick : Prop :=
  ∀ s : State, Inv s → 1 ≤ s.ch.counter → s.ch.counter ≤ s.fs.counter →
    let t := ctlAdvance s.ch.counter s
    t.ch = crossing s.cfg s.env.volume s.ch ∧
      t.env = (if s.ch.counter = s.fs.counter ∧
          (if s.cfg.fsEventAfterAdvance then (s.fs.step.val + 1) % 8 else s.fs.step.val) = 7
        then envTick s.env else s.env)

/-- R72, which the spec derives from R68 and R64, in the order of R71: the scheduler's sub-steps are exact: n cycles of it are n single master cycles. No component overruns an
event, whatever the size of the sub-steps. -/
def Obligations.AdvanceIsTheClockCycleByCycle : Prop :=
  ∀ (n : Nat) (s : State), Inv s → 0 < s.ch.period → ctlAdvance n s = masterCycle^[n] s

/-- R73, which the spec derives from R68, R69, R71 and R64: cycle additivity of the controller and of UPDATE, faults included. -/
def Obligations.CyclesAreAdditive : Prop :=
  (∀ (a b : Nat) (s : State), Inv s → a + b = 0 ∨ 0 < s.ch.period →
    ctlAdvance b (ctlAdvance a s) = ctlAdvance (a + b) s) ∧
    ∀ (a b : BitVec 28) (s : State), Inv s → s.fault = none → a.toNat + b.toNat < 2 ^ 28 →
      ∃ t u, execAll [.update a, .update b] s = .next t ∧ exec (.update (a + b)) s = .next u ∧ SameBlock t u ∧
        (t.fault ≠ none ↔ 0 < a.toNat + b.toNat ∧ s.ch.period = 0) ∧
        (t.fault ≠ none → t.fault = some .channelUnconfigured)

/-- Derived from R68, R69 and R70: where the frame sequencer stands after n cycles, and how many envelope ticks came. -/
def Obligations.FrameSequencerClosedForm : Prop :=
  ∀ (n : Nat) (s : State), Inv s →
    let b := expiries s.fs.counter s.cfg.fsDiv n
    let t := ctlAdvance n s
    t.fs.counter = remaining s.fs.counter s.cfg.fsDiv n ∧ t.fs.step.val = (s.fs.step.val + b) % 8 ∧
      t.env = envTick^[ticksAmong s.cfg.fsEventAfterAdvance s.fs.step.val b] s.env

/-- R70: envelope ticks come once every eight boundaries: 8 * FS_DIV cycles tick the envelope exactly once, from any
point, and leave the frame sequencer where it was. -/
def Obligations.EightBoundariesTickTheEnvelopeOnce : Prop :=
  ∀ s : State, Inv s →
    (ctlAdvance (8 * s.cfg.fsDiv) s).env = envTick s.env ∧ (ctlAdvance (8 * s.cfg.fsDiv) s).fs = s.fs

/-- R106, which the spec derives from R69, R70 and R94: every step keeps the frame sequencer on the timeline of master
time since reset (the ghost `time`, notes/assumptions/6.md). -/
def Obligations.StepKeepsTheTimeline : Prop :=
  ∀ s t : State, Timeline s → step s = .next t → Timeline t

/-- R106, which the spec derives from R69, R70 and R94: the timeline holds after reset. -/
def Obligations.ResetIsOnTheTimeline : Prop := Timeline State.reset

/-- 43_scheduler.md, "Frame-sequencer divider", which the spec derives from R68 to R70: from a frame sequencer as reset
leaves it (counter FS_DIV, step index 0), T cycles of the controller make `T div FS_DIV` boundaries and
`(T div FS_DIV + 1) div 8` or `T div (8 * FS_DIV)` envelope ticks, as the parameter says; and those are the numbers the
closed form counts. -/
def Obligations.TicksSinceResetAreTheDividers : Prop :=
  ∀ (T : Nat) (s : State), Inv s → s.fs = ⟨s.cfg.fsDiv, 0⟩ →
    let b := T / s.cfg.fsDiv
    let ticks := if s.cfg.fsEventAfterAdvance then (b + 1) / 8 else T / (8 * s.cfg.fsDiv)
    let t := ctlAdvance T s
    t.fs.step.val = b % 8 ∧ t.fs.counter = s.cfg.fsDiv - T % s.cfg.fsDiv ∧ t.env = envTick^[ticks] s.env ∧
      expiries s.fs.counter s.cfg.fsDiv T = b ∧ ticksAmong s.cfg.fsEventAfterAdvance s.fs.step.val b = ticks

/-- R51: `RUN n`, for any natural n, has the effect of one advance by n, and each of its commands is acknowledged. -/
def Obligations.RunIsOneAdvance : Prop :=
  ∀ (n : Nat) (s : State), Inv s → s.fault = none → n = 0 ∨ 0 < s.ch.period →
    ∃ t, execAll (expandLine (.run n)) s = .next t ∧ SameBlock t (consume n s) ∧
      t.responses = s.responses ++ List.replicate (expandLine (.run n)).length .ack

/-! ## Sample-rate converter (44_sample_rate.md) -/

/-- R78, which the spec derives from R75 and R76: in any run without a fault from a state with an empty accumulator, N SAMPLE commands have consumed
`floor(N * CLOCK_HZ / OUTPUT_HZ)` cycles beside those the UPDATE commands name, and the accumulator holds the
remainder. The cycles of one SAMPLE are the floor of the ratio or one more. -/
def Obligations.SampleDriftIsBelowOneCycle : Prop :=
  (∀ (is : List Instr) (s t : State), 0 < s.cfg.outputHz → s.acc = 0 → s.fault = none →
    execAll is s = .next t → t.fault = none →
      t.acc = sampleCount is * s.cfg.clockHz % s.cfg.outputHz ∧
      t.time = s.time + sampleCount is * s.cfg.clockHz / s.cfg.outputHz + (is.map updateCount).sum) ∧
    ∀ s : State, Inv s →
      wholeCycles s = s.cfg.clockHz / s.cfg.outputHz ∨ wholeCycles s = s.cfg.clockHz / s.cfg.outputHz + 1

/-- R77, R33: the frames of a run without a fault are as many as its SAMPLE commands, each holds one amplitude twice,
and no frame already given changes. -/
def Obligations.OneDuplicatedFramePerSample : Prop :=
  ∀ (is : List Instr) (s t : State), s.fault = none → execAll is s = .next t → t.fault = none →
    ∃ fr, t.frames = s.frames ++ fr ∧ fr.length = sampleCount is ∧ ∀ f ∈ fr, f.left = f.right

/-! ## Faults (60_exceptions.md) -/

/-- R82, R83: a command that faults writes the fault code, answers it, and does nothing else. The decoder's check comes
first; then SETFREQ raises code 2 exactly for f = 0, UPDATE and SAMPLE code 3 exactly where they would consume cycles
with no frequency written, and no other command raises one. -/
def Obligations.FaultsArePrecise : Prop :=
  (∀ (w : Word) (s : State), s.fault = none → decode w = .reserved →
    runWord w s = .next { s with fault := some .reservedEncoding,
                                 responses := s.responses ++ [.faulted .reservedEncoding] }) ∧
    ∀ (i : Instr) (s t : State), s.fault = none → exec i s = .next t →
      (t.fault ≠ none ↔ i = .setfreq 0 ∨
        (s.ch.period = 0 ∧ ((∃ n, i = .update n ∧ n ≠ 0) ∨
          (i = .sample ∧ 0 < (s.acc + s.cfg.clockHz) / s.cfg.outputHz)))) ∧
      (t.fault ≠ none →
        t = { s with fault := some (if i = .setfreq 0 then .invalidFrequency else .channelUnconfigured),
                     responses := s.responses ++
                       [.faulted (if i = .setfreq 0 then .invalidFrequency else .channelUnconfigured)] })

/-- R84: while a fault is latched every command word, valid or not, is ignored and answered with the first fault's
code; only reset clears the fault. -/
def Obligations.FaultIsLatchedUntilReset : Prop :=
  (∀ (s : State) (w : Word) (rest : List HostEvent) (c : FaultCode), s.cfg.wf = true → s.fault = some c →
    s.inbox = .issue w :: rest → step s = .next { s with inbox := rest, responses := s.responses ++ [.faulted c] }) ∧
    ∀ (s t : State) (c : FaultCode), s.fault = some c → step s = .next t → t.fault ≠ some c →
      ∃ rest, s.inbox = .reset :: rest ∧ t.fault = none

/-- R81: once a frequency is written and with no fault latched, no run of commands faults unless it issues `SETFREQ 0`.
(Reserved words are no commands.) -/
def Obligations.ConfiguredBlockNeverFaults : Prop :=
  ∀ (is : List Instr) (s : State), s.fault = none → 0 < s.ch.period → (∀ i ∈ is, i ≠ .setfreq 0) → SafeRun is s

/-- R27, R33: every command word gets exactly one response, `Ack`, `Value` or `Faulted`, and a read of state that is
repeated gives the same value. -/
def Obligations.EveryWordGetsOneResponse : Prop :=
  (∀ (w : Word) (s : State), ∃ t r, runWord w s = .next t ∧ t.responses = s.responses ++ [r]) ∧
    ∀ (s : State) (i : Instr), i = .rdsample ∨ i = .rdvol →
      ∃ t r, execAll [i, i] s = .next t ∧ t = { s with responses := s.responses ++ [r, r] }

/-! ## Steps, host and reset -/

/-- R2, R33, R46, with the host's pending words held in State by the model's choice (notes/assumptions/1.md): where the
host issues a word, the step is that word, executed on the state with the word taken from the port: the command it
decodes to, or, with no fault latched, fault code 1 and no other effect where it is reserved. -/
def Obligations.StepRunsTheDecodedCommand : Prop :=
  ∀ (s : State) (w : Word) (rest : List HostEvent), s.cfg.wf = true → s.inbox = .issue w :: rest →
    step s = runWord w { s with inbox := rest } ∧
    (∀ i, decode w = .command i → step s = exec i { s with inbox := rest }) ∧
    (decode w = .reserved → s.fault = none →
      step s = .next { s with inbox := rest, fault := some .reservedEncoding,
                              responses := s.responses ++ [.faulted .reservedEncoding] })

/-- The model's choice of how a program comes to run (notes/assumptions/7.md), over R31 and R37: a table word the decoder
accepts runs as that command when the host presents it next. -/
def Obligations.TableWordsRunAsDecoded : Prop :=
  ∀ (nbits w : Nat) (i : Instr) (s : State), s.cfg.wf = true → decodeTableWord nbits w = some i →
    step (s.withFetchWord nbits w) = exec i s

/-- R2, R89, R36, D11: a step answers a next state unless two commands are in flight or the parameters break their
laws, and those two are refused by name, by the model's choice (notes/assumptions/11.md, notes/assumptions/12.md). -/
def Obligations.StepCompletesUnlessOutsideTheContract : Prop :=
  ∀ s : State,
    (s.cfg.wf = true → (∀ w₁ w₂ rest, s.inbox ≠ .concurrent w₁ w₂ :: rest) → ∃ t, step s = .next t) ∧
    (s.cfg.wf = true → ∀ w₁ w₂ rest, s.inbox = .concurrent w₁ w₂ :: rest → step s = .refused .concurrentCommands) ∧
    (s.cfg.wf = false → step s = .refused .illFormedConfiguration)

/-- R92, R89, with the idle step the model's choice (notes/assumptions/8.md): with nothing presented the block is idle and its state is kept, for any number of steps. -/
def Obligations.IdleBlockKeepsItsState : Prop :=
  ∀ (s : State) (k : Nat), s.cfg.wf = true → s.inbox = [] → Host.Core.run Sys2Proof.core k s = .next s

/-- R93, R94, R95: the reset input gives every element its reset value, clears a fault, gives no response, emits nothing,
and leaves the output stream already emitted. That the responses already given and the host's pending events survive a
reset is the model's reading (notes/assumptions/10.md). -/
def Obligations.ResetGivesEveryElementItsValue : Prop :=
  ∀ (s : State) (rest : List HostEvent), s.cfg.wf = true → s.inbox = .reset :: rest →
    ∃ t, step s = .next t ∧ t.fs.counter = s.cfg.fsDiv ∧ t.fs.step = 0 ∧ t.ch.period = 0 ∧ t.ch.counter = 0 ∧
      t.ch.phase = 0 ∧ t.ch.duty = s.cfg.dutyReset ∧ t.ch.sample = 0 ∧ t.env.initial = 0 ∧ t.env.dir = .decrease ∧
      t.env.period = 0 ∧ t.env.volume = 0 ∧ t.env.counter = 0 ∧ t.env.updating = false ∧ t.acc = 0 ∧
      t.fault = none ∧ t.frames = s.frames ∧ t.responses = s.responses ∧ t.inbox = rest ∧ t.cfg = s.cfg

/-- R94, R3, R5, R7: the machine's reset state has the reset values of R94 at the default parameters. -/
def Obligations.ResetStateHasTheResetValues : Prop :=
  State.reset.fs = ⟨8192, 0⟩ ∧ State.reset.ch = ⟨0, 0, 0, State.reset.cfg.dutyReset, 0⟩ ∧
    State.reset.env = ⟨0, .decrease, 0, 0, 0, false⟩ ∧ State.reset.acc = 0 ∧ State.reset.fault = none ∧
    State.reset.cfg.clockHz = 4194304 ∧ State.reset.cfg.outputHz = 44100 ∧
    State.reset.cfg.fsEventAfterAdvance = true ∧ State.reset.cfg.wf = true

/-- R28, which the spec derives, without its words "no TRIG" and its clause on the last crossing's volume
(notes/assumptions/19.md): every step keeps the invariant of reachable states. -/
def Obligations.StepKeepsTheStateInvariant : Prop := ∀ s t : State, Inv s → step s = .next t → Inv t

/-- R28, in the form of notes/assumptions/19.md: the invariant holds after reset, for every well-formed choice of the parameters. -/
def Obligations.ResetMeetsTheStateInvariant : Prop := ∀ c : Config, c.wf = true → Inv (State.resetOf c)

/-- "None changes after reset" (00_scope.md): no step changes a parameter. -/
def Obligations.StepKeepsTheParameters : Prop := ∀ s t : State, step s = .next t → t.cfg = s.cfg

/-- R96, R51: a TRIG on a channel with a frequency written makes `Triggered` true, and `NOTE f, d, iv, dir, per` with
operands in range and f > 0 launches a sounding channel from any state with no fault latched. `Triggered` reads R96
through the ghost `trigFresh` (notes/assumptions/6.md). -/
def Obligations.NoteTriggersTheChannel : Prop :=
  (∀ s : State, s.fault = none → 0 < s.ch.period → ∃ t, exec .trig s = .next t ∧ Triggered t) ∧
  ∀ (f d iv per : Nat) (dir : Direction) (s : State), 1 ≤ f → (Line.note f d iv dir per).wellFormed = true →
    s.fault = none →
    ∃ t, execAll (expandLine (.note f d iv dir per)) s = .next t ∧ Triggered t ∧
      t.ch.period = (2048 - f) * 4 ∧ t.ch.counter = t.ch.period ∧ t.ch.duty.val = d ∧ t.env.volume.val = iv ∧
      t.env.dir = dir ∧ t.env.period.val = per ∧ t.ch.phase = s.ch.phase ∧ t.ch.sample = s.ch.sample ∧ t.fs = s.fs

/-- 95_test_vectors.md: "with another table satisfying rule R6 only those values change". Two blocks that differ only in
the duty table, the duty index, the sample and what was answered and emitted stay so under every command: the duty
pattern reaches nothing but the sample. -/
def Obligations.DutyPatternReachesOnlyTheSample : Prop :=
  ∀ (i : Instr) (s s' t t' : State) (table : Vector (Vector Bool 8) 4),
    s'.cfg = { s.cfg with dutyTable := table } → s'.fs = s.fs → s'.env = s.env → s'.acc = s.acc →
    s'.fault = s.fault → s'.time = s.time →
    (s'.ch.period = s.ch.period ∧ s'.ch.counter = s.ch.counter ∧ s'.ch.phase = s.ch.phase) →
    exec i s = .next t → exec i s' = .next t' →
    t'.fs = t.fs ∧ t'.env = t.env ∧ t'.acc = t.acc ∧ t'.fault = t.fault ∧ t'.time = t.time ∧
      t'.ch.period = t.ch.period ∧ t'.ch.counter = t.ch.counter ∧ t'.ch.phase = t.ch.phase

/-- R99, which the spec derives from R53, R54 and R55: a new initial volume takes effect only at the next TRIG. Two blocks that differ only in it differ only in it
after any other command. -/
def Obligations.InitialVolumeWaitsForTheTrigger : Prop :=
  ∀ (i : Instr) (s t t' : State) (v : Fin 16), i ≠ .trig → exec i s = .next t →
    exec i { s with env := { s.env with initial := v } } = .next t' →
    t' = { t with env := { t.env with initial := t'.env.initial } }
end

