-- ==== Sys2Proof/Laws/Channel.lean ====
section
/-! SUPPORT. What a crossing and the channel advance do, and that the fuel of the advance is enough. -/

namespace Sys2Proof.Machine

variable (c : Config) (v : Fin 16)

@[simp] theorem crossing_period (ch : Channel) : (crossing c v ch).period = ch.period := rfl
@[simp] theorem crossing_counter (ch : Channel) : (crossing c v ch).counter = ch.period := rfl
@[simp] theorem crossing_phase (ch : Channel) : (crossing c v ch).phase = ch.phase + 1 := rfl
@[simp] theorem crossing_duty (ch : Channel) : (crossing c v ch).duty = ch.duty := rfl
@[simp] theorem crossing_sample (ch : Channel) :
    (crossing c v ch).sample = amplitude c ch.duty (ch.phase + 1) v := rfl

/-- A sub-step that does not reach the counter only counts down. -/
theorem chSubStep_count {n : Nat} {ch : Channel} (h : n < ch.counter) :
    chSubStep c v n ch = { ch with counter := ch.counter - n } := by
  have : ¬ ch.counter - n = 0 := by omega
  simp [chSubStep, this]

/-- A sub-step that uses the counter up crosses. -/
theorem chSubStep_cross {n : Nat} {ch : Channel} (h : n = ch.counter) :
    chSubStep c v n ch = crossing c v ch := by
  simp [chSubStep, h, crossing]

@[simp] theorem chSubStep_period (n : Nat) (ch : Channel) : (chSubStep c v n ch).period = ch.period := by
  unfold chSubStep
  dsimp only
  split <;> rfl

@[simp] theorem chSubStep_duty (n : Nat) (ch : Channel) : (chSubStep c v n ch).duty = ch.duty := by
  unfold chSubStep
  dsimp only
  split <;> rfl

/-! ### The loop -/

@[simp] theorem chLoop_zero_rem (fuel : Nat) (ch : Channel) : chLoop c v fuel 0 ch = ch := by
  cases fuel <;> simp [chLoop]

/-- The budget ends before the next crossing. -/
theorem chLoop_count {fuel rem : Nat} {ch : Channel} (hf : 0 < fuel) (h : rem < ch.counter) :
    chLoop c v fuel rem ch = { ch with counter := ch.counter - rem } := by
  obtain ⟨fuel, rfl⟩ : ∃ k, fuel = k + 1 := ⟨fuel - 1, by omega⟩
  by_cases h0 : rem = 0
  · simp [h0]
  · rw [chLoop, if_neg h0, Nat.min_eq_left h.le, Nat.sub_self, chSubStep_count c v h, chLoop_zero_rem]

/-- The next crossing comes within the budget. -/
theorem chLoop_cross {fuel rem : Nat} {ch : Channel} (h0 : 0 < rem) (h : ch.counter ≤ rem) :
    chLoop c v (fuel + 1) rem ch = chLoop c v fuel (rem - ch.counter) (crossing c v ch) := by
  rw [chLoop, if_neg (by omega), Nat.min_eq_right h, chSubStep_cross c v rfl]

/-- With the period and the counter positive, any fuel that covers the budget does the same. -/
theorem chLoop_fuel {rem : Nat} : ∀ {fuel fuel' : Nat} {ch : Channel}, 0 < ch.period → 0 < ch.counter →
    rem ≤ fuel → rem ≤ fuel' → chLoop c v fuel rem ch = chLoop c v fuel' rem ch := by
  induction rem using Nat.strong_induction_on with
  | _ rem ih =>
    intro fuel fuel' ch hP hc hf hf'
    by_cases h0 : rem = 0
    · simp [h0]
    by_cases hlt : rem < ch.counter
    · rw [chLoop_count c v (by omega) hlt, chLoop_count c v (by omega) hlt]
    obtain ⟨fuel, rfl⟩ : ∃ k, fuel = k + 1 := ⟨fuel - 1, by omega⟩
    obtain ⟨fuel', rfl⟩ : ∃ k, fuel' = k + 1 := ⟨fuel' - 1, by omega⟩
    rw [chLoop_cross c v (by omega) (by omega), chLoop_cross c v (by omega) (by omega)]
    exact ih _ (by omega) hP hP (by omega) (by omega)

/-- The loop with any fuel above the budget is the channel advance. -/
theorem chLoop_eq_chAdvance {fuel rem : Nat} {ch : Channel} (hP : 0 < ch.period) (hf : rem < fuel) :
    chLoop c v fuel rem ch = chAdvance c v rem ch := by
  obtain ⟨fuel, rfl⟩ : ∃ k, fuel = k + 1 := ⟨fuel - 1, by omega⟩
  by_cases hc : ch.counter = 0
  · by_cases h0 : rem = 0
    · simp [h0, chAdvance]
    · rw [chAdvance, chLoop_cross c v (by omega) (by omega), chLoop_cross c v (by omega) (by omega)]
      exact chLoop_fuel c v hP hP (by omega) (by omega)
  · exact chLoop_fuel c v hP (by omega) (by omega) (by omega)

/-! ### The advance (R64) -/

/-- A budget that ends before the next crossing only counts down. -/
theorem chAdvance_count {n : Nat} {ch : Channel} (h : n < ch.counter) :
    chAdvance c v n ch = { ch with counter := ch.counter - n } := chLoop_count c v (by omega) h

/-- The next crossing within the budget, and the advance by what is left. -/
theorem chAdvance_cross {n : Nat} {ch : Channel} (h0 : 0 < n) (h : ch.counter ≤ n) :
    chAdvance c v n ch =
      chLoop c v n (n - ch.counter) (crossing c v ch) := by
  rw [chAdvance, chLoop_cross c v h0 h]

/-- The same with a positive counter. -/
theorem chAdvance_cross_pos {n : Nat} {ch : Channel} (hP : 0 < ch.period) (hc : 0 < ch.counter)
    (h : ch.counter ≤ n) :
    chAdvance c v n ch = chAdvance c v (n - ch.counter) (crossing c v ch) := by
  rw [chAdvance_cross c v (by omega) h]
  exact chLoop_eq_chAdvance c v hP (by omega)

/-- The advance writes neither the period nor the duty index, whatever its budget. -/
theorem chLoop_keeps : ∀ (fuel rem : Nat) (ch : Channel),
    (chLoop c v fuel rem ch).period = ch.period ∧ (chLoop c v fuel rem ch).duty = ch.duty := by
  intro fuel
  induction fuel with
  | zero => exact fun _ _ => ⟨rfl, rfl⟩
  | succ fuel ih =>
    intro rem ch
    rw [chLoop]
    split
    · exact ⟨rfl, rfl⟩
    · simpa using ih (rem - min rem ch.counter) (chSubStep c v (min rem ch.counter) ch)

@[simp] theorem chAdvance_period (n : Nat) (ch : Channel) : (chAdvance c v n ch).period = ch.period :=
  (chLoop_keeps c v _ _ _).1

@[simp] theorem chAdvance_duty (n : Nat) (ch : Channel) : (chAdvance c v n ch).duty = ch.duty :=
  (chLoop_keeps c v _ _ _).2

/-- The channel's counter, once positive, stays so. -/
theorem chAdvance_counter_pos (n : Nat) : ∀ {ch : Channel}, 0 < ch.period → 0 < ch.counter →
    0 < (chAdvance c v n ch).counter := by
  induction n using Nat.strong_induction_on with
  | _ n ih =>
    intro ch hP hc
    by_cases hlt : n < ch.counter
    · rw [chAdvance_count c v hlt]
      exact Nat.sub_pos_of_lt hlt
    · rw [chAdvance_cross_pos c v hP hc (by omega)]
      exact ih _ (by omega) hP hP

/-- The counter never exceeds both what it was and the period. -/
theorem chLoop_counter_le {b : Nat} : ∀ (fuel rem : Nat) {ch : Channel}, ch.period ≤ b → ch.counter ≤ b →
    (chLoop c v fuel rem ch).counter ≤ b := by
  intro fuel
  induction fuel with
  | zero => exact fun _ _ _ h => h
  | succ fuel ih =>
    intro rem ch hP hc
    rw [chLoop]
    split
    · exact hc
    · refine ih _ (by simpa using hP) ?_
      unfold chSubStep
      dsimp only
      split
      · exact hP
      · exact (Nat.sub_le _ _).trans hc

theorem chAdvance_counter_le {b n : Nat} {ch : Channel} (hP : ch.period ≤ b) (hc : ch.counter ≤ b) :
    (chAdvance c v n ch).counter ≤ b := chLoop_counter_le c v _ _ hP hc

end Sys2Proof.Machine
end

