-- ==== Sys2Proof/Laws/Config.lean ====
section
/-! SUPPORT. What well-formed parameters give (00_scope.md R3 to R6). -/

namespace Sys2Proof.Config

/-- The laws of the parameters, one by one. -/
theorem wf_iff (c : Config) :
    c.wf = true ↔ 0 < c.clockHz ∧ c.clockHz % 512 = 0 ∧ 0 < c.outputHz ∧ onesPerRow c.dutyTable = [1, 2, 4, 6] := by
  simp [wf, and_assoc]

theorem wf.fsDiv_pos {c : Config} (h : c.wf = true) : 1 ≤ c.fsDiv := by
  obtain ⟨h1, h2, -⟩ := c.wf_iff.mp h
  unfold fsDiv
  omega

theorem wf.outputHz_pos {c : Config} (h : c.wf = true) : 0 < c.outputHz := (c.wf_iff.mp h).2.2.1

/-- R4: `FS_DIV` is an exact quotient. -/
theorem wf.fsDiv_exact {c : Config} (h : c.wf = true) : c.fsDiv * 512 = c.clockHz := by
  obtain ⟨-, h2, -⟩ := c.wf_iff.mp h
  unfold fsDiv
  omega

theorem default_wf : default.wf = true := by decide

end Sys2Proof.Config
end

