-- ==== Sys2Proof/Laws/Decode.lean ====
section
/-! SUPPORT. The fields of a word as numbers, and what the decoder's tests say. -/

namespace Sys2Proof

/-- The opcode field as a number. -/
theorem opcodeOf_toNat (w : Word) : (opcodeOf w).toNat = w.toNat / 2 ^ 28 := by
  have := w.isLt
  simp only [opcodeOf, BitVec.extractLsb'_toNat, Nat.shiftRight_eq_div_pow]
  omega

/-- A field of a word as a number. -/
theorem field_toNat (w : Word) (lo len : Nat) :
    (w.extractLsb' lo len).toNat = w.toNat / 2 ^ lo % 2 ^ len := by
  simp only [BitVec.extractLsb'_toNat, Nat.shiftRight_eq_div_pow]

/-- A field is zero exactly when its number is. -/
theorem field_eq_zero_iff (w : Word) (lo len : Nat) :
    w.extractLsb' lo len = 0#len ↔ w.toNat / 2 ^ lo % 2 ^ len = 0 := by
  rw [← BitVec.toNat_inj, field_toNat]
  simp

@[simp] theorem directionOfBit_bitOfDirection (d : Direction) : directionOfBit (bitOfDirection d) = d := by
  cases d <;> rfl

theorem bitOfDirection_directionOfBit (b : BitVec 1) : bitOfDirection (directionOfBit b) = b := by
  revert b
  decide

/-! ### Words as numbers -/

/-- Appended fields, as a number. -/
theorem toNat_append_add {m n : Nat} (x : BitVec m) (y : BitVec n) :
    (x ++ y).toNat = x.toNat * 2 ^ n + y.toNat := by
  rw [BitVec.toNat_append, ← Nat.shiftLeft_add_eq_or_of_lt y.isLt, Nat.shiftLeft_eq]

theorem encode_setfreq_toNat (f : BitVec 11) : (encode (.setfreq f)).toNat = 0x10000000 + f.toNat := by
  simp only [encode, toNat_append_add]
  rfl

theorem encode_setduty_toNat (d : BitVec 2) : (encode (.setduty d)).toNat = 0x20000000 + d.toNat := by
  simp only [encode, toNat_append_add]
  rfl

theorem encode_setenv_toNat (iv : BitVec 4) (dir : Direction) (per : BitVec 3) :
    (encode (.setenv iv dir per)).toNat =
      0x30000000 + iv.toNat * 16 + (bitOfDirection dir).toNat * 8 + per.toNat := by
  simp only [encode, toNat_append_add]
  simp
  omega

theorem encode_update_toNat (n : BitVec 28) : (encode (.update n)).toNat = 0x50000000 + n.toNat := by
  simp only [encode, toNat_append_add]
  rfl

/-- A mask that keeps the bits from `k` up, as arithmetic. -/
theorem and_high_mask_eq_iff {w m v : Word} {k : Nat} (hk : k ≤ 32) (hm : m.toNat = 2 ^ 32 - 2 ^ k) :
    w &&& m = v ↔ w.toNat / 2 ^ k * 2 ^ k = v.toNat := by
  suffices h : w.toNat &&& (2 ^ 32 - 2 ^ k) = w.toNat / 2 ^ k * 2 ^ k by
    rw [← BitVec.toNat_inj, BitVec.toNat_and, hm, h]
  have hmask : 2 ^ 32 - 2 ^ k = 2 ^ k * (2 ^ (32 - k) - 1) := by
    rw [Nat.mul_sub, ← pow_add, Nat.mul_one, Nat.add_sub_cancel' hk]
  refine Nat.eq_of_testBit_eq fun i => ?_
  rw [Nat.testBit_and, Nat.testBit_mul_two_pow, Nat.testBit_div_two_pow, hmask, Nat.mul_comm,
    Nat.testBit_mul_two_pow, Nat.testBit_two_pow_sub_one]
  by_cases hi : k ≤ i
  · have hik : i - k + k = i := by omega
    by_cases h32 : i < 32
    · have : i - k < 32 - k := by omega
      simp [hi, hik, this]
    · have hw : w.toNat < 2 ^ i := lt_of_lt_of_le w.isLt (Nat.pow_le_pow_right (by omega) (by omega))
      simp [hi, hik, Nat.testBit_lt_two_pow hw]
  · simp [hi]

/-! ### Byte transport -/

@[simp] theorem wordsOfBytes_nil : wordsOfBytes [] = [] := rfl

@[simp] theorem wordsOfBytes_four (b0 b1 b2 b3 : Byte) (rest : List Byte) :
    wordsOfBytes (b0 :: b1 :: b2 :: b3 :: rest) = wordOfBytes b0 b1 b2 b3 :: wordsOfBytes rest := rfl

end Sys2Proof
end

