-- ==== Sys2Proof/Laws/Envelope.lean ====
section
/-! SUPPORT. What the volume arithmetic, the envelope initialisation and the envelope tick do. -/

namespace Sys2Proof.Machine

@[simp] theorem clampVolume_val (v : Int) : (clampVolume v).val = (max 0 (min 15 v)).toNat := rfl

theorem stepVolume_decrease_val (v : Fin 16) : (stepVolume .decrease v).val = v.val - 1 := by
  have := v.isLt
  simp only [stepVolume, clampVolume_val]
  omega

theorem stepVolume_increase_val (v : Fin 16) : (stepVolume .increase v).val = min 15 (v.val + 1) := by
  have := v.isLt
  simp only [stepVolume, clampVolume_val]
  omega

theorem onRail_iff (v : Fin 16) : onRail v = true ↔ v.val = 0 ∨ v.val = 15 := by
  simp [onRail]

/-! ### Envelope initialisation (R54) -/

@[simp] theorem envInit_volume (e : Envelope) : (envInit e).volume = e.initial := rfl
@[simp] theorem envInit_updating (e : Envelope) : (envInit e).updating = true := rfl
@[simp] theorem envInit_initial (e : Envelope) : (envInit e).initial = e.initial := rfl
@[simp] theorem envInit_dir (e : Envelope) : (envInit e).dir = e.dir := rfl
@[simp] theorem envInit_period (e : Envelope) : (envInit e).period = e.period := rfl

theorem envInit_counter_val (e : Envelope) :
    (envInit e).counter.val = if 0 < e.period.val then e.period.val else 8 := by
  unfold envInit
  split <;> rfl

/-! ### Envelope tick (R55) -/

/-- A disabled or frozen envelope is left as it is. -/
theorem envTick_still {e : Envelope} (h : e.updating = false ∨ e.period.val = 0) : envTick e = e := by
  rw [envTick, if_pos h.symm]

/-- A running envelope whose counter does not expire counts down. -/
theorem envTick_count {e : Envelope} (hp : e.period.val ≠ 0) (hu : e.updating = true) (hc : 2 ≤ e.counter.val) :
    envTick e = { e with counter := ⟨e.counter.val - 1, by omega⟩ } := by
  have : ¬ e.counter.val - 1 = 0 := by omega
  simp [envTick, hp, hu, this]

/-- A running envelope whose counter expires takes a volume step. -/
theorem envTick_step {e : Envelope} (hp : e.period.val ≠ 0) (hu : e.updating = true) (hc : e.counter.val ≤ 1) :
    envTick e = envStep e := by
  have : e.counter.val - 1 = 0 := by omega
  simp [envTick, hp, hu, this, envStep]

/-- Everything an envelope tick can do. -/
theorem envTick_cases (e : Envelope) :
    ((e.updating = false ∨ e.period.val = 0) ∧ envTick e = e) ∨
      (e.period.val ≠ 0 ∧ e.updating = true ∧ 2 ≤ e.counter.val ∧
        envTick e = { e with counter := ⟨e.counter.val - 1, by omega⟩ }) ∨
      (e.period.val ≠ 0 ∧ e.updating = true ∧ e.counter.val ≤ 1 ∧ envTick e = envStep e) := by
  by_cases hs : e.updating = false ∨ e.period.val = 0
  · exact .inl ⟨hs, envTick_still hs⟩
  · obtain ⟨hu, hp⟩ := not_or.mp hs
    have hu : e.updating = true := by simpa using hu
    by_cases hc : 2 ≤ e.counter.val
    · exact .inr (.inl ⟨hp, hu, hc, envTick_count hp hu hc⟩)
    · exact .inr (.inr ⟨hp, hu, by omega, envTick_step hp hu (by omega)⟩)

@[simp] theorem envTick_initial (e : Envelope) : (envTick e).initial = e.initial := by
  obtain ⟨-, h⟩ | ⟨-, -, -, h⟩ | ⟨-, -, -, h⟩ := envTick_cases e <;> simp [h, envStep]

@[simp] theorem envTick_dir (e : Envelope) : (envTick e).dir = e.dir := by
  obtain ⟨-, h⟩ | ⟨-, -, -, h⟩ | ⟨-, -, -, h⟩ := envTick_cases e <;> simp [h, envStep]

@[simp] theorem envTick_period (e : Envelope) : (envTick e).period = e.period := by
  obtain ⟨-, h⟩ | ⟨-, -, -, h⟩ | ⟨-, -, -, h⟩ := envTick_cases e <;> simp [h, envStep]

/-- A tick never sets the flag. -/
theorem envTick_updating_of_false {e : Envelope} (h : e.updating = false) : (envTick e).updating = false := by
  rw [envTick_still (.inl h), h]

/-- R55: an envelope that runs has a counter of at least 1, and a tick keeps that so. -/
theorem envTick_counter_pos {e : Envelope} (h : e.updating = true → 1 ≤ e.counter.val) :
    (envTick e).updating = true → 1 ≤ (envTick e).counter.val := by
  obtain ⟨-, he⟩ | ⟨-, -, hc, he⟩ | ⟨hp, -, -, he⟩ := envTick_cases e <;> rw [he]
  · exact h
  · intro _
    show 1 ≤ e.counter.val - 1
    omega
  · intro _
    show 1 ≤ e.period.val
    omega

end Sys2Proof.Machine
end

