-- ==== Sys2Proof/Laws/State.lean ====
section
/-! SUPPORT. One lemma per field and update of the state, so that no proof unfolds a record update. -/

namespace Sys2Proof.Machine

variable (s : State)

/-! ### `State.withFs` -/

@[simp] theorem State.withFs_cfg (x : FrameSequencer) : (s.withFs x).cfg = s.cfg := rfl
@[simp] theorem State.withFs_fs (x : FrameSequencer) : (s.withFs x).fs = x := rfl
@[simp] theorem State.withFs_ch (x : FrameSequencer) : (s.withFs x).ch = s.ch := rfl
@[simp] theorem State.withFs_env (x : FrameSequencer) : (s.withFs x).env = s.env := rfl
@[simp] theorem State.withFs_acc (x : FrameSequencer) : (s.withFs x).acc = s.acc := rfl
@[simp] theorem State.withFs_fault (x : FrameSequencer) : (s.withFs x).fault = s.fault := rfl
@[simp] theorem State.withFs_inbox (x : FrameSequencer) : (s.withFs x).inbox = s.inbox := rfl
@[simp] theorem State.withFs_responses (x : FrameSequencer) : (s.withFs x).responses = s.responses := rfl
@[simp] theorem State.withFs_frames (x : FrameSequencer) : (s.withFs x).frames = s.frames := rfl
@[simp] theorem State.withFs_time (x : FrameSequencer) : (s.withFs x).time = s.time := rfl
@[simp] theorem State.withFs_trigFresh (x : FrameSequencer) : (s.withFs x).trigFresh = s.trigFresh := rfl

/-! ### `State.withCh` -/

@[simp] theorem State.withCh_cfg (x : Channel) : (s.withCh x).cfg = s.cfg := rfl
@[simp] theorem State.withCh_fs (x : Channel) : (s.withCh x).fs = s.fs := rfl
@[simp] theorem State.withCh_ch (x : Channel) : (s.withCh x).ch = x := rfl
@[simp] theorem State.withCh_env (x : Channel) : (s.withCh x).env = s.env := rfl
@[simp] theorem State.withCh_acc (x : Channel) : (s.withCh x).acc = s.acc := rfl
@[simp] theorem State.withCh_fault (x : Channel) : (s.withCh x).fault = s.fault := rfl
@[simp] theorem State.withCh_inbox (x : Channel) : (s.withCh x).inbox = s.inbox := rfl
@[simp] theorem State.withCh_responses (x : Channel) : (s.withCh x).responses = s.responses := rfl
@[simp] theorem State.withCh_frames (x : Channel) : (s.withCh x).frames = s.frames := rfl
@[simp] theorem State.withCh_time (x : Channel) : (s.withCh x).time = s.time := rfl
@[simp] theorem State.withCh_trigFresh (x : Channel) : (s.withCh x).trigFresh = s.trigFresh := rfl

/-! ### `State.withEnv` -/

@[simp] theorem State.withEnv_cfg (x : Envelope) : (s.withEnv x).cfg = s.cfg := rfl
@[simp] theorem State.withEnv_fs (x : Envelope) : (s.withEnv x).fs = s.fs := rfl
@[simp] theorem State.withEnv_ch (x : Envelope) : (s.withEnv x).ch = s.ch := rfl
@[simp] theorem State.withEnv_env (x : Envelope) : (s.withEnv x).env = x := rfl
@[simp] theorem State.withEnv_acc (x : Envelope) : (s.withEnv x).acc = s.acc := rfl
@[simp] theorem State.withEnv_fault (x : Envelope) : (s.withEnv x).fault = s.fault := rfl
@[simp] theorem State.withEnv_inbox (x : Envelope) : (s.withEnv x).inbox = s.inbox := rfl
@[simp] theorem State.withEnv_responses (x : Envelope) : (s.withEnv x).responses = s.responses := rfl
@[simp] theorem State.withEnv_frames (x : Envelope) : (s.withEnv x).frames = s.frames := rfl
@[simp] theorem State.withEnv_time (x : Envelope) : (s.withEnv x).time = s.time := rfl
@[simp] theorem State.withEnv_trigFresh (x : Envelope) : (s.withEnv x).trigFresh = s.trigFresh := rfl

/-! ### `State.withAcc` -/

@[simp] theorem State.withAcc_cfg (x : Nat) : (s.withAcc x).cfg = s.cfg := rfl
@[simp] theorem State.withAcc_fs (x : Nat) : (s.withAcc x).fs = s.fs := rfl
@[simp] theorem State.withAcc_ch (x : Nat) : (s.withAcc x).ch = s.ch := rfl
@[simp] theorem State.withAcc_env (x : Nat) : (s.withAcc x).env = s.env := rfl
@[simp] theorem State.withAcc_acc (x : Nat) : (s.withAcc x).acc = x := rfl
@[simp] theorem State.withAcc_fault (x : Nat) : (s.withAcc x).fault = s.fault := rfl
@[simp] theorem State.withAcc_inbox (x : Nat) : (s.withAcc x).inbox = s.inbox := rfl
@[simp] theorem State.withAcc_responses (x : Nat) : (s.withAcc x).responses = s.responses := rfl
@[simp] theorem State.withAcc_frames (x : Nat) : (s.withAcc x).frames = s.frames := rfl
@[simp] theorem State.withAcc_time (x : Nat) : (s.withAcc x).time = s.time := rfl
@[simp] theorem State.withAcc_trigFresh (x : Nat) : (s.withAcc x).trigFresh = s.trigFresh := rfl

/-! ### `State.withFault` -/

@[simp] theorem State.withFault_cfg (x : Option FaultCode) : (s.withFault x).cfg = s.cfg := rfl
@[simp] theorem State.withFault_fs (x : Option FaultCode) : (s.withFault x).fs = s.fs := rfl
@[simp] theorem State.withFault_ch (x : Option FaultCode) : (s.withFault x).ch = s.ch := rfl
@[simp] theorem State.withFault_env (x : Option FaultCode) : (s.withFault x).env = s.env := rfl
@[simp] theorem State.withFault_acc (x : Option FaultCode) : (s.withFault x).acc = s.acc := rfl
@[simp] theorem State.withFault_fault (x : Option FaultCode) : (s.withFault x).fault = x := rfl
@[simp] theorem State.withFault_inbox (x : Option FaultCode) : (s.withFault x).inbox = s.inbox := rfl
@[simp] theorem State.withFault_responses (x : Option FaultCode) : (s.withFault x).responses = s.responses := rfl
@[simp] theorem State.withFault_frames (x : Option FaultCode) : (s.withFault x).frames = s.frames := rfl
@[simp] theorem State.withFault_time (x : Option FaultCode) : (s.withFault x).time = s.time := rfl
@[simp] theorem State.withFault_trigFresh (x : Option FaultCode) : (s.withFault x).trigFresh = s.trigFresh := rfl

/-! ### `State.withInbox` -/

@[simp] theorem State.withInbox_cfg (x : List HostEvent) : (s.withInbox x).cfg = s.cfg := rfl
@[simp] theorem State.withInbox_fs (x : List HostEvent) : (s.withInbox x).fs = s.fs := rfl
@[simp] theorem State.withInbox_ch (x : List HostEvent) : (s.withInbox x).ch = s.ch := rfl
@[simp] theorem State.withInbox_env (x : List HostEvent) : (s.withInbox x).env = s.env := rfl
@[simp] theorem State.withInbox_acc (x : List HostEvent) : (s.withInbox x).acc = s.acc := rfl
@[simp] theorem State.withInbox_fault (x : List HostEvent) : (s.withInbox x).fault = s.fault := rfl
@[simp] theorem State.withInbox_inbox (x : List HostEvent) : (s.withInbox x).inbox = x := rfl
@[simp] theorem State.withInbox_responses (x : List HostEvent) : (s.withInbox x).responses = s.responses := rfl
@[simp] theorem State.withInbox_frames (x : List HostEvent) : (s.withInbox x).frames = s.frames := rfl
@[simp] theorem State.withInbox_time (x : List HostEvent) : (s.withInbox x).time = s.time := rfl
@[simp] theorem State.withInbox_trigFresh (x : List HostEvent) : (s.withInbox x).trigFresh = s.trigFresh := rfl

/-! ### `State.elapse` -/

@[simp] theorem State.elapse_cfg (n : Nat) : (s.elapse n).cfg = s.cfg := rfl
@[simp] theorem State.elapse_fs (n : Nat) : (s.elapse n).fs = s.fs := rfl
@[simp] theorem State.elapse_ch (n : Nat) : (s.elapse n).ch = s.ch := rfl
@[simp] theorem State.elapse_env (n : Nat) : (s.elapse n).env = s.env := rfl
@[simp] theorem State.elapse_acc (n : Nat) : (s.elapse n).acc = s.acc := rfl
@[simp] theorem State.elapse_fault (n : Nat) : (s.elapse n).fault = s.fault := rfl
@[simp] theorem State.elapse_inbox (n : Nat) : (s.elapse n).inbox = s.inbox := rfl
@[simp] theorem State.elapse_responses (n : Nat) : (s.elapse n).responses = s.responses := rfl
@[simp] theorem State.elapse_frames (n : Nat) : (s.elapse n).frames = s.frames := rfl
@[simp] theorem State.elapse_time (n : Nat) : (s.elapse n).time = s.time + n := rfl
@[simp] theorem State.elapse_trigFresh (n : Nat) : (s.elapse n).trigFresh = s.trigFresh := rfl

/-! ### `State.withTrigFresh` -/

@[simp] theorem State.withTrigFresh_cfg (b : Bool) : (s.withTrigFresh b).cfg = s.cfg := rfl
@[simp] theorem State.withTrigFresh_fs (b : Bool) : (s.withTrigFresh b).fs = s.fs := rfl
@[simp] theorem State.withTrigFresh_ch (b : Bool) : (s.withTrigFresh b).ch = s.ch := rfl
@[simp] theorem State.withTrigFresh_env (b : Bool) : (s.withTrigFresh b).env = s.env := rfl
@[simp] theorem State.withTrigFresh_acc (b : Bool) : (s.withTrigFresh b).acc = s.acc := rfl
@[simp] theorem State.withTrigFresh_fault (b : Bool) : (s.withTrigFresh b).fault = s.fault := rfl
@[simp] theorem State.withTrigFresh_inbox (b : Bool) : (s.withTrigFresh b).inbox = s.inbox := rfl
@[simp] theorem State.withTrigFresh_responses (b : Bool) : (s.withTrigFresh b).responses = s.responses := rfl
@[simp] theorem State.withTrigFresh_frames (b : Bool) : (s.withTrigFresh b).frames = s.frames := rfl
@[simp] theorem State.withTrigFresh_time (b : Bool) : (s.withTrigFresh b).time = s.time := rfl
@[simp] theorem State.withTrigFresh_trigFresh (b : Bool) : (s.withTrigFresh b).trigFresh = b := rfl

/-! ### `State.respond` -/

@[simp] theorem State.respond_cfg (r : Response) : (s.respond r).cfg = s.cfg := rfl
@[simp] theorem State.respond_fs (r : Response) : (s.respond r).fs = s.fs := rfl
@[simp] theorem State.respond_ch (r : Response) : (s.respond r).ch = s.ch := rfl
@[simp] theorem State.respond_env (r : Response) : (s.respond r).env = s.env := rfl
@[simp] theorem State.respond_acc (r : Response) : (s.respond r).acc = s.acc := rfl
@[simp] theorem State.respond_fault (r : Response) : (s.respond r).fault = s.fault := rfl
@[simp] theorem State.respond_inbox (r : Response) : (s.respond r).inbox = s.inbox := rfl
@[simp] theorem State.respond_responses (r : Response) : (s.respond r).responses = s.responses ++ [r] := rfl
@[simp] theorem State.respond_frames (r : Response) : (s.respond r).frames = s.frames := rfl
@[simp] theorem State.respond_time (r : Response) : (s.respond r).time = s.time := rfl
@[simp] theorem State.respond_trigFresh (r : Response) : (s.respond r).trigFresh = s.trigFresh := rfl

/-! ### `State.emit` -/

@[simp] theorem State.emit_cfg (f : Frame) : (s.emit f).cfg = s.cfg := rfl
@[simp] theorem State.emit_fs (f : Frame) : (s.emit f).fs = s.fs := rfl
@[simp] theorem State.emit_ch (f : Frame) : (s.emit f).ch = s.ch := rfl
@[simp] theorem State.emit_env (f : Frame) : (s.emit f).env = s.env := rfl
@[simp] theorem State.emit_acc (f : Frame) : (s.emit f).acc = s.acc := rfl
@[simp] theorem State.emit_fault (f : Frame) : (s.emit f).fault = s.fault := rfl
@[simp] theorem State.emit_inbox (f : Frame) : (s.emit f).inbox = s.inbox := rfl
@[simp] theorem State.emit_responses (f : Frame) : (s.emit f).responses = s.responses := rfl
@[simp] theorem State.emit_frames (f : Frame) : (s.emit f).frames = s.frames ++ [f] := rfl
@[simp] theorem State.emit_time (f : Frame) : (s.emit f).time = s.time := rfl
@[simp] theorem State.emit_trigFresh (f : Frame) : (s.emit f).trigFresh = s.trigFresh := rfl

end Sys2Proof.Machine
end

