-- ==== Sys2Proof/Laws/Ops.lean ====
section
/-! SUPPORT. What the shared operations of Machine/Ops.lean do: responding, taking a fault, and reset. -/

namespace Sys2Proof.Machine

variable (s : State)

/-- R82: taking a fault writes the code and answers it. -/
theorem State.raise_eq (c : FaultCode) :
    s.raise c = { s with fault := some c, responses := s.responses ++ [.faulted c] } := rfl

@[simp] theorem State.raise_fault (c : FaultCode) : (s.raise c).fault = some c := rfl

@[simp] theorem State.raise_responses (c : FaultCode) :
    (s.raise c).responses = s.responses ++ [.faulted c] := rfl

/-- R84: with no fault latched a command runs. -/
@[simp] theorem State.unlessFaulted_clear {s : State} (h : s.fault = none) (run : State) :
    s.unlessFaulted run = run := by
  simp [State.unlessFaulted, h]

/-- R84: under a latched fault a command is answered with that fault's code. -/
@[simp] theorem State.unlessFaulted_latched {s : State} {c : FaultCode} (h : s.fault = some c) (run : State) :
    s.unlessFaulted run = s.respond (.faulted c) := by
  simp [State.unlessFaulted, h]

/-- Everything `unlessFaulted` can do. -/
theorem State.unlessFaulted_cases (run : State) :
    (s.fault = none ∧ s.unlessFaulted run = run) ∨
      ∃ c, s.fault = some c ∧ s.unlessFaulted run = s.respond (.faulted c) := by
  cases h : s.fault with
  | none => exact .inl ⟨rfl, by simp [h]⟩
  | some c => exact .inr ⟨c, rfl, by simp [h]⟩

/-- R94, R95: reset is the reset state of the same parameters, with the host's side kept. -/
theorem State.assertReset_eq :
    s.assertReset =
      { State.resetOf s.cfg with inbox := s.inbox, responses := s.responses, frames := s.frames } := rfl

@[simp] theorem State.assertReset_cfg : s.assertReset.cfg = s.cfg := rfl
@[simp] theorem State.assertReset_inbox : s.assertReset.inbox = s.inbox := rfl
@[simp] theorem State.assertReset_responses : s.assertReset.responses = s.responses := rfl
@[simp] theorem State.assertReset_frames : s.assertReset.frames = s.frames := rfl
@[simp] theorem State.assertReset_fault : s.assertReset.fault = none := rfl
@[simp] theorem State.assertReset_time : s.assertReset.time = 0 := rfl

end Sys2Proof.Machine
end

