-- ==== Sys2Proof/Laws/PerInstr.lean ====
section
/-! SUPPORT. Per command of the opcode table: its word has the fixed bits of its row (30_encoding.md R45). -/

namespace Sys2Proof.Laws.MatchesRow

/-- The word of a command, whatever its operands, has its row's fixed bits. -/
def Statement (i : Instr) : Prop := encode i &&& i.row.mask = i.row.value

theorem setfreq (f : BitVec 11) : Statement (.setfreq f) := by
  have := f.isLt
  refine (and_high_mask_eq_iff (k := 11) (by omega) rfl).mpr ?_
  rw [encode_setfreq_toNat]
  show _ = 0x10000000
  omega

theorem setduty (d : BitVec 2) : Statement (.setduty d) := by
  have := d.isLt
  refine (and_high_mask_eq_iff (k := 2) (by omega) rfl).mpr ?_
  rw [encode_setduty_toNat]
  show _ = 0x20000000
  omega

theorem setenv (iv : BitVec 4) (dir : Direction) (per : BitVec 3) : Statement (.setenv iv dir per) := by
  have := iv.isLt
  have := (bitOfDirection dir).isLt
  have := per.isLt
  refine (and_high_mask_eq_iff (k := 8) (by omega) rfl).mpr ?_
  rw [encode_setenv_toNat]
  show _ = 0x30000000
  omega

theorem trig : Statement .trig := by
  unfold Statement
  decide

theorem update (n : BitVec 28) : Statement (.update n) := by
  have := n.isLt
  refine (and_high_mask_eq_iff (k := 28) (by omega) rfl).mpr ?_
  rw [encode_update_toNat]
  show _ = 0x50000000
  omega

theorem sample : Statement .sample := by
  unfold Statement
  decide

theorem rdsample : Statement .rdsample := by
  unfold Statement
  decide

theorem rdvol : Statement .rdvol := by
  unfold Statement
  decide

end Sys2Proof.Laws.MatchesRow
end

