-- ==== Sys2Proof/Laws/Scheduler.lean ====
section
/-! SUPPORT. What a boundary, a sub-step and the scheduling loop do, the induction over the loop packaged once, and that its fuel is enough. -/

namespace Sys2Proof.Machine

/-! ### Dispatch and boundary (R69, R70) -/

theorem dispatch_seven (s : State) : dispatch 7 s = s.withEnv (envTick s.env) := rfl

theorem dispatch_other {i : Fin 8} (h : i ≠ 7) (s : State) : dispatch i s = s := by simp [dispatch, h]

/-- The index a boundary dispatches (R69). -/
def dispatchedIndex (s : State) : Fin 8 := if s.cfg.fsEventAfterAdvance then s.fs.step + 1 else s.fs.step

/-- Everything a boundary does. -/
theorem fsBoundary_eq (s : State) :
    fsBoundary s =
      { s with fs := { counter := s.cfg.fsDiv, step := s.fs.step + 1 },
               env := if dispatchedIndex s = 7 then envTick s.env else s.env } := by
  cases h : s.cfg.fsEventAfterAdvance <;>
    simp only [fsBoundary, dispatchedIndex, dispatch, h, if_true, if_false, Bool.false_eq_true] <;>
    split <;> rfl

/-! ### Sub-step (R68, R71) -/

/-- A sub-step that ends before the boundary. -/
theorem subStep_inside {n : Nat} {s : State} (h : n < s.fs.counter) :
    subStep n s =
      { s with ch := chAdvance s.cfg s.env.volume n s.ch, fs := { s.fs with counter := s.fs.counter - n } } := by
  have : ¬ s.fs.counter - n = 0 := by omega
  simp only [subStep, State.withFs_fs, this, if_false]
  rfl

/-- A sub-step that ends on the boundary. -/
theorem subStep_boundary {n : Nat} {s : State} (h : s.fs.counter ≤ n) :
    subStep n s = fsBoundary { s with ch := chAdvance s.cfg s.env.volume n s.ch, fs := { s.fs with counter := 0 } } := by
  have : s.fs.counter - n = 0 := by omega
  simp only [subStep, State.withFs_fs, this, if_true]
  rfl

/-- The channel part of a sub-step. -/
@[simp] theorem subStep_ch (n : Nat) (s : State) : (subStep n s).ch = chAdvance s.cfg s.env.volume n s.ch := by
  rcases Nat.lt_or_ge n s.fs.counter with h | h
  · rw [subStep_inside h]
  · rw [subStep_boundary h, fsBoundary_eq]

/-- The frame-sequencer part of a sub-step. -/
theorem subStep_fs (n : Nat) (s : State) :
    (subStep n s).fs = if n < s.fs.counter then { s.fs with counter := s.fs.counter - n }
      else { counter := s.cfg.fsDiv, step := s.fs.step + 1 } := by
  rcases Nat.lt_or_ge n s.fs.counter with h | h
  · rw [subStep_inside h, if_pos h]
  · have : ¬ n < s.fs.counter := by omega
    rw [subStep_boundary h, fsBoundary_eq, if_neg this]

/-- The envelope part of a sub-step. -/
theorem subStep_env (n : Nat) (s : State) :
    (subStep n s).env = if n < s.fs.counter ∨ dispatchedIndex s ≠ 7 then s.env else envTick s.env := by
  rcases Nat.lt_or_ge n s.fs.counter with h | h
  · rw [subStep_inside h, if_pos (.inl h)]
  · rw [subStep_boundary h, fsBoundary_eq]
    have : ¬ n < s.fs.counter := by omega
    simp only [dispatchedIndex, this, false_or, ne_eq]
    split <;> simp_all

/-- What a sub-step leaves alone. -/
theorem subStep_rest (n : Nat) (s : State) :
    (subStep n s).cfg = s.cfg ∧ (subStep n s).acc = s.acc ∧ (subStep n s).fault = s.fault ∧
      (subStep n s).inbox = s.inbox ∧ (subStep n s).responses = s.responses ∧ (subStep n s).frames = s.frames ∧
      (subStep n s).time = s.time ∧ (subStep n s).trigFresh = s.trigFresh := by
  rcases Nat.lt_or_ge n s.fs.counter with h | h
  · rw [subStep_inside h]
    simp
  · rw [subStep_boundary h, fsBoundary_eq]
    simp

@[simp] theorem subStep_cfg (n : Nat) (s : State) : (subStep n s).cfg = s.cfg := (subStep_rest n s).1

/-! ### The loop -/

@[simp] theorem ctlLoop_zero_rem (fuel : Nat) (s : State) : ctlLoop fuel 0 s = s := by
  cases fuel <;> simp [ctlLoop]

theorem ctlLoop_succ {fuel rem : Nat} (h : 0 < rem) (s : State) :
    ctlLoop (fuel + 1) rem s =
      ctlLoop fuel (rem - min rem s.fs.counter) (subStep (min rem s.fs.counter) s) := by
  rw [ctlLoop, if_neg (by omega)]

/-- Whatever every sub-step keeps, the loop keeps. -/
theorem ctlLoop_keeps {P : State → Prop} (hstep : ∀ n s, P s → P (subStep n s)) :
    ∀ (fuel rem : Nat) (s : State), P s → P (ctlLoop fuel rem s) := by
  intro fuel
  induction fuel with
  | zero => exact fun _ _ h => h
  | succ fuel ih =>
    intro rem s h
    rw [ctlLoop]
    split
    · exact h
    · exact ih _ _ (hstep _ _ h)

/-- Whatever every sub-step keeps, the advance keeps. -/
theorem ctlAdvance_keeps {P : State → Prop} (hstep : ∀ n s, P s → P (subStep n s)) (n : Nat) {s : State}
    (h : P s) : P (ctlAdvance n s) := ctlLoop_keeps hstep _ _ _ h

@[simp] theorem ctlAdvance_cfg (n : Nat) (s : State) : (ctlAdvance n s).cfg = s.cfg :=
  ctlAdvance_keeps (P := fun t => t.cfg = s.cfg) (fun _ _ h => by simpa using h) n rfl

/-- The counter of the frame sequencer stays positive between sub-steps (R68, "Termination"). -/
theorem subStep_fs_counter_pos {n : Nat} {s : State} (hD : 1 ≤ s.cfg.fsDiv) : 1 ≤ (subStep n s).fs.counter := by
  rw [subStep_fs]
  split
  · show 1 ≤ s.fs.counter - n
    omega
  · exact hD

/-- With positive counters, any fuel that covers the budget does the same. -/
theorem ctlLoop_fuel {rem : Nat} : ∀ {fuel fuel' : Nat} {s : State}, 1 ≤ s.cfg.fsDiv → 1 ≤ s.fs.counter →
    rem ≤ fuel → rem ≤ fuel' → ctlLoop fuel rem s = ctlLoop fuel' rem s := by
  induction rem using Nat.strong_induction_on with
  | _ rem ih =>
    intro fuel fuel' s hD hc hf hf'
    by_cases h0 : rem = 0
    · simp [h0]
    obtain ⟨fuel, rfl⟩ : ∃ k, fuel = k + 1 := ⟨fuel - 1, by omega⟩
    obtain ⟨fuel', rfl⟩ : ∃ k, fuel' = k + 1 := ⟨fuel' - 1, by omega⟩
    rw [ctlLoop_succ (by omega), ctlLoop_succ (by omega)]
    exact ih _ (by omega) (by simpa using hD) (subStep_fs_counter_pos hD) (by omega) (by omega)

/-- The loop reads the parameters, the frame sequencer, the channel and the envelope, and nothing else. -/
theorem ctlLoop_congr : ∀ (fuel rem : Nat) {s t : State}, s.cfg = t.cfg → s.fs = t.fs → s.ch = t.ch → s.env = t.env →
    (ctlLoop fuel rem s).fs = (ctlLoop fuel rem t).fs ∧ (ctlLoop fuel rem s).ch = (ctlLoop fuel rem t).ch ∧
      (ctlLoop fuel rem s).env = (ctlLoop fuel rem t).env := by
  intro fuel
  induction fuel with
  | zero => exact fun _ _ _ _ hf hc he => ⟨hf, hc, he⟩
  | succ fuel ih =>
    intro rem s t hcfg hf hc he
    by_cases h0 : rem = 0
    · simp [h0, hf, hc, he]
    · rw [ctlLoop_succ (by omega), ctlLoop_succ (by omega), hf]
      refine ih _ (by simpa using hcfg) ?_ ?_ ?_
      · simp only [subStep_fs, hcfg, hf]
      · simp only [subStep_ch, hcfg, hc, he]
      · have hi : dispatchedIndex s = dispatchedIndex t := by simp only [dispatchedIndex, hcfg, hf]
        simp only [subStep_env, hi, hf, he]

theorem ctlAdvance_congr (n : Nat) {s t : State} (hcfg : s.cfg = t.cfg) (hf : s.fs = t.fs) (hc : s.ch = t.ch)
    (he : s.env = t.env) :
    (ctlAdvance n s).fs = (ctlAdvance n t).fs ∧ (ctlAdvance n s).ch = (ctlAdvance n t).ch ∧
      (ctlAdvance n s).env = (ctlAdvance n t).env := ctlLoop_congr _ _ hcfg hf hc he

end Sys2Proof.Machine
end

