-- ==== Sys2Proof/Laws/Step.lean ====
section
/-! SUPPORT. What a command and a step can do, said once: every command is its effect unless a fault is latched, and every step is idle, a reset, a command or a reserved word. -/

namespace Sys2Proof.Machine

/-- What a command does when no fault is latched. -/
def commandEffect : Instr → State → State
  | .setfreq f, s =>
    if f = 0#11 then s.raise .invalidFrequency else (s.withCh { s.ch with period := periodOf f }).respond .ack
  | .setduty d, s => (s.withCh { s.ch with duty := dutyIndex d }).respond .ack
  | .setenv iv dir per, s =>
    ((s.withEnv { s.env with initial := volumeOf iv, dir := dir, period := envPeriodOf per }).withTrigFresh
      false).respond .ack
  | .trig, s =>
    (((s.withEnv (envInit s.env)).withCh { s.ch with counter := s.ch.period }).withTrigFresh true).respond .ack
  | .update n, s =>
    if unconfigured (cycleCount n) s then s.raise .channelUnconfigured
    else (consume (cycleCount n) s).respond .ack
  | .sample, s =>
    if unconfigured (wholeCycles s) s then s.raise .channelUnconfigured
    else
      let s' := (consume (wholeCycles s) s).withAcc (accResidue s)
      (s'.emit (outputFrame s')).respond .ack
  | .rdsample, s => s.respond (.value s.ch.sample)
  | .rdvol, s => s.respond (.value s.env.volume)

/-- Every command, in one form. -/
theorem exec_eq (i : Instr) (s : State) : exec i s = .next (s.unlessFaulted (commandEffect i s)) := by
  cases i <;> rfl

/-- With no fault latched a command has its effect. -/
theorem exec_clear {s : State} (h : s.fault = none) (i : Instr) : exec i s = .next (commandEffect i s) := by
  rw [exec_eq, State.unlessFaulted_clear h]

/-- R84: under a latched fault a command only answers it. -/
theorem exec_latched {s : State} {c : FaultCode} (h : s.fault = some c) (i : Instr) :
    exec i s = .next (s.respond (.faulted c)) := by
  rw [exec_eq, State.unlessFaulted_latched h]

/-- Everything a command can do. -/
theorem exec_cases {i : Instr} {s t : State} (h : exec i s = .next t) :
    (s.fault = none ∧ t = commandEffect i s) ∨ ∃ c, s.fault = some c ∧ t = s.respond (.faulted c) := by
  cases hf : s.fault with
  | none =>
    rw [exec_clear hf, Host.Outcome.next.injEq] at h
    exact .inl ⟨rfl, h.symm⟩
  | some c =>
    rw [exec_latched hf, Host.Outcome.next.injEq] at h
    exact .inr ⟨c, rfl, h.symm⟩

/-- Everything a step can do when it answers a next state. -/
theorem step_cases {s t : State} (h : step s = .next t) :
    s.cfg.wf = true ∧
      ((s.inbox = [] ∧ t = s) ∨
        (∃ rest, s.inbox = .reset :: rest ∧ t = (s.withInbox rest).assertReset) ∨
        ∃ w rest, s.inbox = .issue w :: rest ∧
          ((∃ i, decode w = .command i ∧ exec i (s.withInbox rest) = .next t) ∨
            (decode w = .reserved ∧ execReserved (s.withInbox rest) = .next t))) := by
  unfold step at h
  split at h
  case isFalse => cases h
  case isTrue hw =>
    refine ⟨hw, ?_⟩
    unfold nextEvent at h
    split at h
    case h_1 he => exact .inl ⟨he, by simpa using h.symm⟩
    case h_2 e rest he =>
      cases e with
      | issue w =>
        refine .inr (.inr ⟨w, rest, he, ?_⟩)
        simp only [perform, runWord] at h
        split at h
        case h_1 i hd => exact .inl ⟨i, hd, h⟩
        case h_2 hd => exact .inr ⟨hd, h⟩
      | reset => exact .inr (.inl ⟨rest, he, by simpa [perform] using h.symm⟩)
      | concurrent w₁ w₂ => cases h

/-- A reserved word, in one form (R46, R84). -/
theorem execReserved_eq (s : State) :
    execReserved s = .next (s.unlessFaulted (s.raise .reservedEncoding)) := rfl

/-! ### The controller's advance, element by element -/

/-- What the advance leaves alone of the ports, the fault, the accumulator and the ghosts. -/
theorem ctlAdvance_rest (n : Nat) (s : State) :
    (ctlAdvance n s).acc = s.acc ∧ (ctlAdvance n s).fault = s.fault ∧ (ctlAdvance n s).inbox = s.inbox ∧
      (ctlAdvance n s).responses = s.responses ∧ (ctlAdvance n s).frames = s.frames ∧
      (ctlAdvance n s).time = s.time ∧ (ctlAdvance n s).trigFresh = s.trigFresh := by
  refine ctlAdvance_keeps (P := fun t => t.acc = s.acc ∧ t.fault = s.fault ∧ t.inbox = s.inbox ∧
    t.responses = s.responses ∧ t.frames = s.frames ∧ t.time = s.time ∧ t.trigFresh = s.trigFresh) ?_ n (by simp)
  intro n u h
  obtain ⟨-, h2, h3, h4, h5, h6, h7, h8⟩ := subStep_rest n u
  simpa only [h2, h3, h4, h5, h6, h7, h8] using h

/-- What the advance leaves alone of the channel and the envelope. -/
theorem ctlAdvance_settings (n : Nat) (s : State) :
    (ctlAdvance n s).ch.period = s.ch.period ∧ (ctlAdvance n s).ch.duty = s.ch.duty ∧
      (ctlAdvance n s).env.initial = s.env.initial ∧ (ctlAdvance n s).env.dir = s.env.dir ∧
      (ctlAdvance n s).env.period = s.env.period := by
  refine ctlAdvance_keeps (P := fun t => t.ch.period = s.ch.period ∧ t.ch.duty = s.ch.duty ∧
    t.env.initial = s.env.initial ∧ t.env.dir = s.env.dir ∧ t.env.period = s.env.period) ?_ n (by simp)
  intro n u h
  rw [subStep_ch, subStep_env]
  split <;> simpa using h

@[simp] theorem consume_cfg (n : Nat) (s : State) : (consume n s).cfg = s.cfg := ctlAdvance_cfg n s
@[simp] theorem consume_acc (n : Nat) (s : State) : (consume n s).acc = s.acc := (ctlAdvance_rest n s).1
@[simp] theorem consume_fault (n : Nat) (s : State) : (consume n s).fault = s.fault := (ctlAdvance_rest n s).2.1
@[simp] theorem consume_inbox (n : Nat) (s : State) : (consume n s).inbox = s.inbox := (ctlAdvance_rest n s).2.2.1
@[simp] theorem consume_responses (n : Nat) (s : State) : (consume n s).responses = s.responses :=
  (ctlAdvance_rest n s).2.2.2.1
@[simp] theorem consume_frames (n : Nat) (s : State) : (consume n s).frames = s.frames :=
  (ctlAdvance_rest n s).2.2.2.2.1
@[simp] theorem consume_time (n : Nat) (s : State) : (consume n s).time = s.time + n := by
  show (ctlAdvance n s).time + n = _
  rw [(ctlAdvance_rest n s).2.2.2.2.2.1]
@[simp] theorem consume_trigFresh (n : Nat) (s : State) : (consume n s).trigFresh = s.trigFresh :=
  (ctlAdvance_rest n s).2.2.2.2.2.2
@[simp] theorem consume_fs (n : Nat) (s : State) : (consume n s).fs = (ctlAdvance n s).fs := rfl
@[simp] theorem consume_ch (n : Nat) (s : State) : (consume n s).ch = (ctlAdvance n s).ch := rfl
@[simp] theorem consume_env (n : Nat) (s : State) : (consume n s).env = (ctlAdvance n s).env := rfl

theorem unconfigured_iff (n : Nat) (s : State) : unconfigured n s = true ↔ 0 < n ∧ s.ch.period = 0 := by
  simp [unconfigured]

end Sys2Proof.Machine
end

