-- ==== Sys2Proof/Tests/Slice0.lean ====
section
/-! SUPPORT. Smoke tests of WellFormed, words written out from 30_encoding.md, the vectors of 95_test_vectors.md, and a witness for the hypotheses of each statement. -/

namespace Sys2Proof.Tests

open Sys2Proof Sys2Proof.Machine

/-! ## Helpers -/

/-- The spec's default parameters, with one choice of the open `DUTY_RESET`, so that a state can be computed. -/
def testConfig : Config := { Config.default with dutyReset := 2 }

/-- Reset with those parameters. -/
def fresh : State := State.resetOf testConfig

/-- The state 95_test_vectors.md W1b gives after `NOTE 0x783, 2, 15, dec, 3`. -/
def sounding : State :=
  { fresh with ch := ⟨500, 500, 0, 2, 0⟩, env := ⟨15, .decrease, 3, 15, 3, true⟩, trigFresh := true }

/-- A field of the state an outcome answers. -/
def after {α : Type} (r : Result) (get : State → α) : Option α :=
  match r with
  | .next t => some (get t)
  | _ => none

/-! ## WellFormed: one ill-formed line for each check, and the largest operands in range (R50) -/

theorem test_setfreq_range : (Line.setfreq 2048).wellFormed = false ∧ (Line.setfreq 2047).wellFormed = true := by decide
theorem test_setduty_range : (Line.setduty 4).wellFormed = false ∧ (Line.setduty 3).wellFormed = true := by decide
theorem test_setenv_volume_range : (Line.setenv 16 .decrease 0).wellFormed = false := by decide
theorem test_setenv_period_range : (Line.setenv 0 .increase 8).wellFormed = false := by decide
theorem test_setenv_in_range : (Line.setenv 15 .increase 7).wellFormed = true := by decide
theorem test_update_range : (Line.update 268435456).wellFormed = false ∧ (Line.update 268435455).wellFormed = true := by
  decide
theorem test_note_ranges : (Line.note 2048 0 0 .decrease 0).wellFormed = false ∧
    (Line.note 0 4 0 .decrease 0).wellFormed = false ∧ (Line.note 0 0 16 .decrease 0).wellFormed = false ∧
    (Line.note 0 0 0 .decrease 8).wellFormed = false ∧ (Line.note 2047 3 15 .increase 7).wellFormed = true := by decide

/-! ## Words written out bit by bit from the field layout table (R39 to R45) -/

theorem test_word_setfreq : decode 0b0001_00_000000000000000_11110000011 = .command (.setfreq 0x783) := by decide
theorem test_word_setduty : decode 0b0010_00_000000000000000_000_0000_0_0_10 = .command (.setduty 2) := by decide
theorem test_word_setenv :
    decode 0b0011_00_000000000000000_000_1001_1_1_01 = .command (.setenv 9 .increase 5) := by decide
theorem test_word_setenv_decrease :
    decode 0b0011_00_000000000000000_000_1111_0_0_11 = .command (.setenv 15 .decrease 3) := by decide
theorem test_word_trig : decode 0b0100_00_00000000000000000000000000 = .command .trig := by decide
theorem test_word_update :
    decode 0b0101_0000000000000000011111010000 = .command (.update 2000) := by decide
theorem test_word_sample : decode 0b0110_0000000000000000000000000000 = .command .sample := by decide
theorem test_word_rdsample : decode 0b0111_00_00000000000000000000000000 = .command .rdsample := by decide
theorem test_word_rdvol : decode 0b1000_00_00000000000000000000000000 = .command .rdvol := by decide
/-- 95_test_vectors.md, "Decode": a set must-be-zero bit, a channel other than 0, a reserved opcode. -/
theorem test_reserved_words : decode 0x10000800 = .reserved ∧ decode 0x14000783 = .reserved ∧
    decode 0x20000004 = .reserved ∧ decode 0x3000010F = .reserved ∧ decode 0x40000001 = .reserved ∧
    decode 0x00000000 = .reserved ∧ decode 0x90000000 = .reserved ∧ decode 0xF0000000 = .reserved := by decide
theorem test_table_word : decodeTableWord 32 0x300000F3 = some (.setenv 15 .decrease 3) ∧
    decodeTableWord 32 0x10000800 = none := by decide
/-- R31: 0x500007D0 travels as D0 07 00 50. -/
theorem test_transport : bytesOfWord 0x500007D0 = [0xD0, 0x07, 0x00, 0x50] ∧
    wordsOfBytes [0xD0, 0x07, 0x00, 0x50, 0x00, 0x00, 0x00] = [0x500007D0] := by decide

/-! ## Assembly text (R50, R51) -/

theorem test_text_setenv :
    assembleText ['S', 'E', 'T', 'E', 'N', 'V', ' ', '1', '5', ',', ' ', 'd', 'e', 'c', ',', ' ', '3', ' ', ';', 'x'] =
      some [0x300000F3] := by decide
theorem test_text_hexadecimal :
    assembleText ['S', 'E', 'T', 'F', 'R', 'E', 'Q', ' ', '0', 'x', '7', '8', '3'] = some [0x10000783] := by decide
theorem test_text_out_of_range :
    assembleText ['S', 'E', 'T', 'D', 'U', 'T', 'Y', ' ', '4'] = none := by decide
theorem test_nop : assembleLine .nop = some [0x50000000] := by decide
theorem test_run_splits : assembleLine (.run 268435460) = some [0x5FFFFFFF, 0x50000005] := by decide

/-! ## Components against 95_test_vectors.md -/

/-- "Period function". -/
theorem test_period_vectors : [1, 2, 1024, 1260, 1923, 2000, 2046, 2047].map (fun f => periodOf (BitVec.ofNat 11 f)) =
    [8188, 8184, 4096, 3152, 500, 192, 8, 4] := by decide

/-- "Duty bit", the default table. -/
theorem test_duty_vectors : (List.finRange 4).map (fun d => (List.finRange 8).filter fun p => dutyBit testConfig d p) =
    [[7], [0, 7], [0, 5, 6, 7], [1, 2, 3, 4, 5, 6]] := by decide

/-- "Envelope initialisation". -/
theorem test_env_init_vectors :
    ([(9, 0), (9, 5), (0, 1), (15, 7)] : List (Fin 16 × Fin 8)).map
      (fun r => let e := envInit ⟨r.1, .decrease, r.2, 3, 0, false⟩; (e.volume, e.counter, e.updating)) =
      [(9, 8, true), (9, 5, true), (0, 1, true), (15, 7, true)] := by decide

/-- "Envelope tick", all eleven rows. -/
theorem test_env_tick_vectors :
    ([(15, .decrease, 3, 3, true), (15, .decrease, 3, 1, true), (1, .decrease, 2, 1, true), (14, .increase, 1, 1, true),
      (0, .decrease, 1, 1, true), (15, .increase, 1, 1, true), (0, .increase, 7, 1, true), (8, .increase, 7, 7, true),
      (7, .decrease, 0, 8, true), (7, .decrease, 3, 2, false), (5, .increase, 2, 8, true)] :
        List (Fin 16 × Direction × Fin 8 × Fin 9 × Bool)).map
      (fun (v, d, p, c, u) => let e := envTick ⟨0, d, p, v, c, u⟩; (e.volume, e.counter, e.updating)) =
      [(15, 2, true), (14, 3, true), (0, 2, false), (15, 1, false), (0, 1, false), (15, 1, false), (1, 7, true),
        (8, 6, true), (7, 8, true), (7, 2, false), (5, 7, true)] := by decide

/-- "Channel advance", all nine rows, from sample 9. -/
theorem test_ch_advance_vectors :
    ([(500, 500, 0, 0), (500, 500, 0, 499), (500, 500, 0, 500), (500, 500, 0, 1250), (500, 1, 0, 1), (4, 4, 0, 32),
      (4, 4, 3, 5), (8188, 8188, 7, 8188), (8, 0, 0, 1)] : List (Nat × Nat × Fin 8 × Nat)).map
      (fun (p, c, ph, n) => let ch := chAdvance testConfig 15 n ⟨p, c, ph, 2, 9⟩; (ch.counter, ch.phase, ch.sample)) =
      [(500, 0, 9), (1, 0, 9), (500, 1, 0), (250, 2, 0), (500, 1, 0), (4, 0, 15), (3, 4, 0), (8188, 0, 15), (7, 1, 0)] := by
  decide +kernel

/-- "Scheduler and frame sequencer", after-advance rows up to the first tick: the tick lowers the envelope counter. -/
theorem test_scheduler_vectors :
    ([0, 1, 8191, 8192, 8193, 57343, 57344] : List Nat).map
      (fun n => let t := ctlAdvance n { sounding with ch := { sounding.ch with period := 8188, counter := 8188 } }
        (t.fs.counter, t.fs.step, t.env.counter)) =
      [(8192, 0, 3), (8191, 0, 3), (1, 0, 3), (8192, 1, 3), (8191, 1, 3), (1, 6, 3), (8192, 7, 2)] := by decide +kernel

/-- The same boundary with `FS_EVENT_AFTER_ADVANCE` false: index 7 is entered and no tick runs. -/
theorem test_before_advance_has_no_tick_at_the_seventh_boundary :
    (ctlAdvance 57344 { sounding with cfg := { testConfig with fsEventAfterAdvance := false },
                                      ch := { sounding.ch with period := 8188, counter := 8188 } }).env.counter = 3 := by
  decide +kernel

/-! ## Commands, one step each -/

/-- R61's example; P4: a shorter period leaves the running counter. -/
theorem test_setfreq : after (exec (.setfreq 0x783) fresh) (·.ch.period) = some 500 := by decide
theorem test_setfreq_keeps_the_counter :
    after (exec (.setfreq 2047) sounding) (fun t => (t.ch.period, t.ch.counter)) = some (4, 500) := by decide
/-- R62's example. -/
theorem test_setduty : after (exec (.setduty 3) sounding) (fun t => (t.ch.duty, t.ch.sample)) = some (3, 0) := by decide
/-- R53's example: the volume is not written. -/
theorem test_setenv : after (exec (.setenv 15 .increase 3) fresh) (·.env) =
    some ⟨15, .increase, 3, 0, 0, false⟩ := by decide
/-- R63's example: the phase is kept. -/
theorem test_trig : after (exec .trig { sounding with ch := ⟨500, 12, 5, 2, 7⟩, env := ⟨15, .decrease, 3, 0, 0, false⟩ })
    (fun t => (t.ch, t.env)) = some (⟨500, 500, 5, 2, 7⟩, ⟨15, .decrease, 3, 15, 3, true⟩) := by decide
/-- R67's example, W1b. -/
theorem test_update : after (exec (.update 2000) sounding) (fun t => (t.ch, t.fs, t.time)) =
    some (⟨500, 500, 4, 2, 0⟩, ⟨6192, 0⟩, 2000) := by decide +kernel
/-- W1a: a boundary is crossed, and dispatches no tick. -/
theorem test_update_over_a_boundary :
    after (exec (.update 12608) { sounding with ch := ⟨3152, 3152, 0, 2, 0⟩ }) (fun t => (t.ch, t.fs, t.env)) =
      some (⟨3152, 3152, 4, 2, 0⟩, ⟨3776, 1⟩, sounding.env) := by decide +kernel
/-- P3, the third SAMPLE. -/
theorem test_sample :
    after (exec .sample { sounding with ch := ⟨192, 2, 0, 3, 0⟩, env := ⟨15, .decrease, 0, 15, 8, true⟩, acc := 9608 })
      (fun t => (t.ch.counter, t.acc, t.time, t.frames)) = some (99, 14412, 95, [⟨15, 15⟩]) := by decide +kernel
/-- "Sample-rate converter": with CLOCK_HZ below OUTPUT_HZ a SAMPLE can consume no cycle. -/
theorem test_sample_without_a_cycle :
    after (exec .sample { fresh with cfg := { testConfig with outputHz := 8388608 } })
      (fun t => (t.acc, t.time, t.fault, t.frames)) = some (4194304, 0, none, [⟨0, 0⟩]) := by decide +kernel
theorem test_rdsample : after (exec .rdsample { sounding with ch := ⟨500, 500, 5, 2, 15⟩ }) (·.responses) =
    some [.value 15] := by decide
theorem test_rdvol : after (exec .rdvol sounding) (·.responses) = some [.value 15] := by decide

/-! ## Faults, from 95_test_vectors.md "Faults" -/

theorem test_update_unconfigured : after (exec (.update 5) fresh) (fun t => (t.fault, t.responses)) =
    some (some .channelUnconfigured, [.faulted .channelUnconfigured]) := by decide
theorem test_sample_unconfigured : after (exec .sample fresh) (fun t => (t.fault, t.frames)) =
    some (some .channelUnconfigured, []) := by decide
theorem test_setfreq_zero : after (exec (.setfreq 0) fresh) (fun t => (t.fault, t.ch.period)) =
    some (some .invalidFrequency, 0) := by decide
theorem test_latched : after (exec (.setfreq 2047) { fresh with fault := some .channelUnconfigured })
    (fun t => (t.ch.period, t.responses)) = some (0, [.faulted .channelUnconfigured]) := by decide
theorem test_reserved_step : after (step (fresh.withFetchWord 32 0)) (fun t => (t.fault, t.inbox)) =
    some (some .reservedEncoding, []) := by decide
theorem test_reset_clears_the_fault :
    after (step { sounding with fault := some .reservedEncoding, inbox := [.reset] }) (fun t => (t.fault, t.ch.duty)) =
      some (none, 2) := by decide

/-- notes/assumptions/19.md: `TRIG; SETFREQ 2047` from reset leaves the counter 0 with a period written, although a TRIG
has run; R28's clause as worded does not hold here. -/
theorem test_trig_before_setfreq_leaves_the_counter_zero :
    after (execAll [.trig, .setfreq 2047] fresh) (fun t => (t.ch.counter, t.ch.period, t.env.updating)) =
      some (0, 4, true) := by decide

/-! ## Witnesses: a state and operands that meet all hypotheses of each statement -/

/-- The invariant holds of a sounding channel, and of one whose counter and frame sequencer expire together. -/
theorem inv_sounding : Inv sounding :=
  ⟨by decide, by decide, by decide, .inr ⟨1923, by decide, by decide, by decide⟩, by decide, by decide, by decide, by decide,
    by decide⟩

/-- A sounding channel whose crossing falls on the boundary that ticks the envelope. -/
def atTheTick : State := { sounding with fs := ⟨500, 6⟩ }

theorem inv_atTheTick : Inv atTheTick :=
  ⟨by decide, by decide, by decide, .inr ⟨1923, by decide, by decide, by decide⟩, by decide, by decide, by decide, by decide,
    by decide⟩

theorem inv_fresh : Inv fresh :=
  ⟨by decide, by decide, by decide, .inl rfl, by decide, by decide, by decide, by decide, by decide⟩

theorem witness_encodeOfDecode : decode 0x10000783 = .command (.setfreq 0x783) := by decide

/-- A word of each opcode, so that no clause about "a word of opcode `op`" is empty, and one that no row selects. -/
theorem witness_wordsOfEachOpcode : opcodeOf 0x10000783 = 1 ∧ opcodeOf 0x20000003 = 2 ∧ opcodeOf 0x3000010F = 3 ∧
    opcodeOf 0x44000000 = 4 ∧ opcodeOf 0x60000001 = 6 ∧ opcodeOf 0x70000000 = 7 ∧ opcodeOf 0x8C000000 = 8 ∧
    opcodeMap.filter (fun r => r.selects 0x14000783) = [] := by decide

theorem witness_reservedWords : fresh.fault = none ∧ decode 0x00000000 = .reserved ∧ decode 0xF0000000 = .reserved ∧
    decode 0x10000800 = .reserved := by decide

theorem witness_assembler : 2047 ≤ 2047 ∧ 2047 < 2048 ∧ assembleLine (.setfreq 2047) = some [0x100007FF] ∧
    assembleLine (.setfreq 2048) = none ∧ assembleLine (.setduty 4) = none ∧ assembleLine (.setenv 15 .increase 7) =
      some [0x300000FF] ∧ assembleLine (.setenv 16 .increase 7) = none ∧
    assembleLine (.update 268435455) = some [0x5FFFFFFF] ∧ assembleLine (.update 268435456) = none := by decide

theorem witness_transport : ([1, 2, 3] : List Byte).length < 4 ∧ ([] : List Byte).length < 4 := by decide

/-- The clauses of the commands' statements: no fault latched with each operand case, and a fault latched. -/
theorem witness_setfreq : sounding.fault = none ∧ (1 : BitVec 11) ≠ 0 ∧ (2047 : BitVec 11) ≠ 0 ∧ (0 : BitVec 11) = 0 ∧
    { fresh with fault := some .invalidFrequency }.fault = some .invalidFrequency := by decide

theorem witness_plain_commands : sounding.fault = none ∧
    { fresh with fault := some .reservedEncoding }.fault = some .reservedEncoding := by decide

theorem witness_trig_both_counters : sounding.fault = none ∧ 0 < sounding.env.period.val ∧
    fresh.fault = none ∧ ¬ 0 < fresh.env.period.val := by decide

theorem witness_update : sounding.fault = none ∧ 0 < sounding.ch.period ∧ fresh.fault = none ∧ (5 : BitVec 28) ≠ 0 ∧
    fresh.ch.period = 0 ∧ opcodeOf 0x50000000 = 5 ∧ opcodeOf 0x5FFFFFFF = 5 := by decide

theorem witness_sample : sounding.fault = none ∧ 0 < sounding.ch.period ∧ fresh.fault = none ∧ fresh.ch.period = 0 ∧
    (fresh.acc + fresh.cfg.clockHz) / fresh.cfg.outputHz ≠ 0 ∧
    ({ testConfig with outputHz := 8388608 }.clockHz) / 8388608 = 0 := by decide

theorem witness_onlyTheNamedCommandsWrite : ∃ t, exec .trig { sounding with env := fresh.env } = .next t ∧
    fresh.env.updating = false ∧ t.env.updating = true := ⟨_, rfl, by decide, by decide⟩

theorem witness_envelopeTick :
    ((⟨15, .decrease, 0, 15, 8, true⟩ : Envelope).period.val = 0) ∧
    ((⟨15, .decrease, 3, 15, 2, true⟩ : Envelope).period.val ≠ 0 ∧
      2 ≤ (⟨15, .decrease, 3, 15, 2, true⟩ : Envelope).counter.val) ∧
    (⟨15, .decrease, 3, 15, 1, true⟩ : Envelope).counter.val = 1 := by decide

theorem witness_envelopeConverges : sounding.env.period.val ≠ 0 ∧ sounding.env.updating = true ∧
    1 ≤ sounding.env.counter.val ∧ sounding.env.dir = .decrease ∧
    { sounding.env with dir := .increase }.dir = .increase := by decide

theorem witness_stillEnvelope : fresh.env.updating = false ∧ fresh.env.period.val = 0 := by decide

theorem witness_periodFunction : (1 : BitVec 11) ≠ 0 ∧ (1 : BitVec 11).toNat < (2047 : BitVec 11).toNat := by decide

theorem witness_dutyRows : testConfig.wf = true := by decide

theorem witness_channelAdvance : 1 ≤ sounding.ch.counter ∧ 0 < sounding.ch.period := by decide

/-- A period has been written and neither a TRIG nor an advance has run (R97). -/
def untriggered : State := { fresh with ch := ⟨4, 0, 0, 2, 0⟩ }

theorem witness_zeroCounter : Inv untriggered ∧ untriggered.ch.counter = 0 ∧ 0 < untriggered.ch.period ∧ 0 < 1 :=
  ⟨⟨by decide, by decide, by decide, .inr ⟨2047, by decide, by decide, by decide⟩, by decide, by decide, by decide,
    by decide, by decide⟩, by decide⟩

theorem witness_eightPeriods : Inv sounding ∧ 1 ≤ sounding.ch.counter ∧ sounding.ch.counter ≤ sounding.ch.period :=
  ⟨inv_sounding, by decide, by decide⟩

theorem witness_outputHolds : Inv sounding ∧ 499 < sounding.ch.counter := ⟨inv_sounding, by decide⟩

theorem witness_boundarySubStep : 8191 < fresh.fs.counter := by decide

theorem witness_controllerLoop : Inv sounding ∧ 0 < 1 := ⟨inv_sounding, by decide⟩

theorem witness_crossingSeesTheVolume : (Inv atTheTick ∧ 1 ≤ atTheTick.ch.counter ∧
    atTheTick.ch.counter ≤ atTheTick.fs.counter ∧ atTheTick.ch.counter = atTheTick.fs.counter) ∧
    Inv sounding ∧ sounding.ch.counter < sounding.fs.counter := ⟨⟨inv_atTheTick, by decide⟩, inv_sounding, by decide⟩

theorem witness_clockCycleByCycle : Inv sounding ∧ 0 < sounding.ch.period := ⟨inv_sounding, by decide⟩

theorem witness_additive : Inv sounding ∧ sounding.fault = none ∧ 0 < sounding.ch.period ∧ Inv fresh ∧ fresh.fault = none ∧
    fresh.ch.period = 0 ∧ (268435454 : BitVec 28).toNat + (1 : BitVec 28).toNat < 2 ^ 28 :=
  ⟨inv_sounding, by decide, by decide, inv_fresh, by decide⟩

/-- Both values of the parameter, at the frame sequencer's reset state. -/
theorem witness_ticksSinceReset : (Inv fresh ∧ fresh.fs = ⟨fresh.cfg.fsDiv, 0⟩ ∧ fresh.cfg.fsEventAfterAdvance = true) ∧
    Inv { fresh with cfg := { testConfig with fsEventAfterAdvance := false } } ∧
    { testConfig with fsEventAfterAdvance := false }.fsDiv = fresh.fs.counter :=
  ⟨⟨inv_fresh, by decide⟩, ⟨by decide, by decide, by decide, .inl rfl, by decide, by decide, by decide, by decide,
    by decide⟩, by decide⟩

theorem timeline_fresh : Timeline fresh := ⟨by decide, by decide⟩

theorem witness_stepKeepsTheTimeline : ∃ t, Timeline { fresh with inbox := [.issue 0x50000000] } ∧
    step { fresh with inbox := [.issue 0x50000000] } = .next t := ⟨_, timeline_fresh, rfl⟩

theorem witness_runIsOneAdvance : Inv sounding ∧ sounding.fault = none ∧ 0 < sounding.ch.period :=
  ⟨inv_sounding, by decide⟩

theorem witness_sampleRuns : ∃ t, 0 < sounding.cfg.outputHz ∧ sounding.acc = 0 ∧ sounding.fault = none ∧
    execAll [.update 1, .sample] sounding = .next t ∧ t.fault = none := ⟨_, by decide, rfl, rfl, rfl, by decide +kernel⟩

theorem witness_configuredNeverFaults : sounding.fault = none ∧ 0 < sounding.ch.period ∧
    ∀ i ∈ ([.update 268435455, .trig, .setfreq 1] : List Instr), i ≠ .setfreq 0 := by decide

theorem witness_everyWord : (Instr.rdvol = .rdsample ∨ Instr.rdvol = .rdvol) := .inr rfl

theorem witness_faultsArePrecise : fresh.fault = none ∧ decode 0x90000000 = .reserved ∧ (∃ t, exec (.setfreq 0) fresh = .next t ∧ t.fault ≠ none) ∧
    (∃ t, exec (.update 1) fresh = .next t ∧ t.fault ≠ none) ∧ ∃ t, exec .sample fresh = .next t ∧ t.fault ≠ none :=
  ⟨rfl, by decide, ⟨_, rfl, by decide⟩, ⟨_, rfl, by decide⟩, ⟨_, rfl, by decide⟩⟩

theorem witness_latchedFault_word : testConfig.wf = true ∧
    { fresh with fault := some .reservedEncoding, inbox := [.issue 0x70000000] }.fault = some .reservedEncoding := by decide

theorem witness_latchedFault_reset : ∃ t, step { fresh with fault := some .reservedEncoding, inbox := [.reset] } = .next t ∧
    t.fault ≠ some .reservedEncoding := ⟨_, rfl, by decide⟩

theorem witness_stepRuns_reserved : { fresh with inbox := [.issue 0x90000000] }.inbox = [.issue 0x90000000] ∧
    decode 0x90000000 = .reserved ∧ fresh.fault = none := by decide

theorem witness_stepRuns : testConfig.wf = true ∧ { fresh with inbox := [.issue 0x40000000] }.inbox = [.issue 0x40000000] ∧
    decode 0x40000000 = .command .trig := by decide

theorem witness_tableWords : testConfig.wf = true ∧ decodeTableWord 32 0x50000000 = some (.update 0) := by decide

theorem witness_stepOutsideTheContract : testConfig.wf = true ∧ { testConfig with clockHz := 1000 }.wf = false ∧
    (∀ w₁ w₂ rest, fresh.inbox ≠ .concurrent w₁ w₂ :: rest) ∧
    { fresh with inbox := [.concurrent 0 1] }.inbox = [.concurrent 0 1] :=
  ⟨by decide, by decide, by simp [fresh, State.resetOf], rfl⟩

theorem witness_reset : testConfig.wf = true ∧ { sounding with inbox := [.reset] }.inbox = [.reset] := by decide

theorem witness_idle : fresh.cfg.wf = true ∧ fresh.inbox = [] := by decide

theorem witness_stepKeepsInv : ∃ t, Inv { sounding with inbox := [.issue 0x40000000] } ∧
    step { sounding with inbox := [.issue 0x40000000] } = .next t :=
  ⟨_, ⟨by decide, by decide, by decide, .inr ⟨1923, by decide, by decide, by decide⟩, by decide, by decide, by decide,
    by decide, by decide⟩, rfl⟩

theorem witness_stepKeepsTheParameters : ∃ t, step { fresh with inbox := [.issue 0x10000783] } = .next t := ⟨_, rfl⟩

theorem witness_note : 1 ≤ 1 ∧ (Line.note 1 0 0 .decrease 0).wellFormed = true ∧
    (Line.note 2047 3 15 .increase 7).wellFormed = true ∧ fresh.fault = none ∧ 0 < untriggered.ch.period ∧
    untriggered.fault = none := by decide

theorem witness_triggered : Triggered sounding := by unfold Triggered; decide

/-- Another duty table that meets R6. -/
def otherTable : Vector (Vector Bool 8) 4 :=
  #v[#v[true, false, false, false, false, false, false, false], #v[true, true, false, false, false, false, false, false],
     #v[true, true, true, true, false, false, false, false], #v[true, true, true, true, true, true, false, false]]

/-- `sounding` with that table, another duty index and another sample. -/
def soundingOther : State :=
  { sounding with cfg := { testConfig with dutyTable := otherTable }, ch := ⟨500, 500, 0, 3, 9⟩ }

theorem witness_dutyPattern : (∃ t t', exec (.update 1000) sounding = .next t ∧ exec (.update 1000) soundingOther = .next t') ∧
    soundingOther.cfg = { sounding.cfg with dutyTable := otherTable } ∧ soundingOther.fs = sounding.fs ∧
    soundingOther.env = sounding.env ∧ soundingOther.acc = sounding.acc ∧ soundingOther.fault = sounding.fault ∧
    soundingOther.time = sounding.time ∧ soundingOther.ch.period = sounding.ch.period ∧
    soundingOther.ch.counter = sounding.ch.counter ∧ soundingOther.ch.phase = sounding.ch.phase :=
  ⟨⟨_, _, rfl, rfl⟩, by decide⟩

theorem witness_initialVolume : ∃ t t', Instr.update 1000 ≠ .trig ∧ exec (.update 1000) sounding = .next t ∧
    exec (.update 1000) { sounding with env := { sounding.env with initial := 3 } } = .next t' :=
  ⟨_, _, by decide, rfl, rfl⟩

end Sys2Proof.Tests
end

/-! The statements of 00_scope.md: a step is the issued word's execution (O47), and the duty pattern reaches nothing but
the sample (O57). -/

namespace Sys2Proof.Machine

/-! ## One step, one event (R2, R33) -/

/-- With well-formed parameters a step takes the first event from the port and responds to it. -/
theorem step_of_inbox_cons {s : State} {e : HostEvent} {rest : List HostEvent} (hwf : s.cfg.wf = true)
    (hin : s.inbox = e :: rest) : step s = perform e (s.withInbox rest) := by
  rw [step, if_pos hwf, nextEvent, hin]

theorem runWord_of_command {w : Word} {i : Instr} (h : decode w = .command i) (s : State) :
    runWord w s = exec i s := by
  rw [runWord, h]

theorem runWord_of_reserved {w : Word} (h : decode w = .reserved) (s : State) :
    runWord w s = execReserved s := by
  rw [runWord, h]

/-- R46: with no fault latched, a reserved word raises code 1. -/
theorem runWord_of_reserved_clear {w : Word} {s : State} (h : decode w = .reserved) (hf : s.fault = none) :
    runWord w s = .next (s.raise .reservedEncoding) := by
  rw [runWord_of_reserved h, execReserved_eq, State.unlessFaulted_clear hf]

/-- Settles O47: the step is `runWord` of the issued word, and `runWord` follows the decoder's verdict. -/
theorem stepRunsTheDecodedCommand : Obligations.StepRunsTheDecodedCommand := by
  intro s w rest hwf hin
  have hstep : step s = runWord w (s.withInbox rest) := step_of_inbox_cons hwf hin
  refine ⟨hstep, fun i hd => ?_, fun hd hf => ?_⟩
  · exact hstep.trans (runWord_of_command hd _)
  · exact hstep.trans (runWord_of_reserved_clear hd hf)

/-! ## Blocks that differ only in the duty pattern

`SameButDuty` relates two blocks that may differ in the duty table, the duty index, the sample and what stands at the
ports. Every command preserves it, because the duty pattern is read only by `crossing`, into the sample, and the sample
is read only into what is answered or emitted. -/

/-- Two channels whose crossings fall together and count the same phase. -/
structure SameTiming (ch ch' : Channel) : Prop where
  period : ch'.period = ch.period
  counter : ch'.counter = ch.counter
  phase : ch'.phase = ch.phase

/-- Two blocks that agree except in duty table, duty index, sample and what was answered and emitted. Of the parameters
it keeps those a command reads. -/
structure SameButDuty (s s' : State) : Prop where
  clockHz : s'.cfg.clockHz = s.cfg.clockHz
  outputHz : s'.cfg.outputHz = s.cfg.outputHz
  fsEventAfterAdvance : s'.cfg.fsEventAfterAdvance = s.cfg.fsEventAfterAdvance
  fs : s'.fs = s.fs
  env : s'.env = s.env
  acc : s'.acc = s.acc
  fault : s'.fault = s.fault
  time : s'.time = s.time
  ch : SameTiming s.ch s'.ch

/-! ### The channel -/

namespace SameTiming

variable {ch ch' : Channel}

theorem crossing (h : SameTiming ch ch') (c c' : Config) (v v' : Fin 16) :
    SameTiming (crossing c v ch) (crossing c' v' ch') :=
  ⟨h.period, h.period, congrArg (· + 1) h.phase⟩

theorem chSubStep (h : SameTiming ch ch') (c c' : Config) (v v' : Fin 16) {n : Nat} (hn : n ≤ ch.counter) :
    SameTiming (chSubStep c v n ch) (chSubStep c' v' n ch') := by
  rcases hn.lt_or_eq with hlt | heq
  · rw [chSubStep_count c v hlt, chSubStep_count c' v' (h.counter ▸ hlt)]
    exact ⟨h.period, congrArg (· - n) h.counter, h.phase⟩
  · rw [chSubStep_cross c v heq, chSubStep_cross c' v' (heq.trans h.counter.symm)]
    exact h.crossing c c' v v'

theorem chLoop (c c' : Config) (v v' : Fin 16) (fuel : Nat) : ∀ (rem : Nat) {ch ch' : Channel}, SameTiming ch ch' →
    SameTiming (chLoop c v fuel rem ch) (chLoop c' v' fuel rem ch') := by
  induction fuel with
  | zero => exact fun _ _ _ h => h
  | succ fuel ih =>
    intro rem ch ch' h
    rw [Machine.chLoop, Machine.chLoop, h.counter]
    split
    · exact h
    · exact ih _ (h.chSubStep c c' v v' (min_le_right _ _))

theorem chAdvance (h : SameTiming ch ch') (c c' : Config) (v v' : Fin 16) (n : Nat) :
    SameTiming (chAdvance c v n ch) (chAdvance c' v' n ch') := chLoop c c' v v' _ _ h

end SameTiming

namespace SameButDuty

variable {s s' : State}

/-! ### One operation on the state -/

theorem withCh (h : SameButDuty s s') {ch ch' : Channel} (hch : SameTiming ch ch') :
    SameButDuty (s.withCh ch) (s'.withCh ch') := { h with ch := hch }

theorem withEnv (h : SameButDuty s s') {e e' : Envelope} (he : e' = e) :
    SameButDuty (s.withEnv e) (s'.withEnv e') := { h with env := he }

theorem withAcc (h : SameButDuty s s') {a a' : Nat} (ha : a' = a) :
    SameButDuty (s.withAcc a) (s'.withAcc a') := { h with acc := ha }

theorem withTrigFresh (h : SameButDuty s s') (b : Bool) :
    SameButDuty (s.withTrigFresh b) (s'.withTrigFresh b) := { h with }

theorem elapse (h : SameButDuty s s') (n : Nat) : SameButDuty (s.elapse n) (s'.elapse n) :=
  { h with time := congrArg (· + n) h.time }

theorem respond (h : SameButDuty s s') (r r' : Response) : SameButDuty (s.respond r) (s'.respond r') := { h with }

theorem emit (h : SameButDuty s s') (f f' : Frame) : SameButDuty (s.emit f) (s'.emit f') := { h with }

theorem raise (h : SameButDuty s s') (c : FaultCode) : SameButDuty (s.raise c) (s'.raise c) := { h with fault := rfl }

/-! ### What the commands compute from the state -/

theorem fsDiv_eq (h : SameButDuty s s') : s'.cfg.fsDiv = s.cfg.fsDiv := congrArg (· / 512) h.clockHz

theorem dispatchedIndex_eq (h : SameButDuty s s') : dispatchedIndex s' = dispatchedIndex s := by
  rw [dispatchedIndex, dispatchedIndex, h.fsEventAfterAdvance, h.fs]

theorem unconfigured_eq (h : SameButDuty s s') (n : Nat) : unconfigured n s' = unconfigured n s := by
  rw [unconfigured, unconfigured, h.ch.period]

theorem accAdded_eq (h : SameButDuty s s') : accAdded s' = accAdded s := by
  rw [accAdded, accAdded, h.acc, h.clockHz]

theorem wholeCycles_eq (h : SameButDuty s s') : wholeCycles s' = wholeCycles s := by
  rw [wholeCycles, wholeCycles, h.accAdded_eq, h.outputHz]

theorem accResidue_eq (h : SameButDuty s s') : accResidue s' = accResidue s := by
  rw [accResidue, accResidue, h.accAdded_eq, h.outputHz]

/-! ### The controller's advance -/

theorem subStep (h : SameButDuty s s') (n : Nat) : SameButDuty (subStep n s) (subStep n s') := by
  obtain ⟨hcfg, hacc, hfault, -, -, -, htime, -⟩ := subStep_rest n s
  obtain ⟨hcfg', hacc', hfault', -, -, -, htime', -⟩ := subStep_rest n s'
  constructor
  case clockHz => rw [hcfg, hcfg', h.clockHz]
  case outputHz => rw [hcfg, hcfg', h.outputHz]
  case fsEventAfterAdvance => rw [hcfg, hcfg', h.fsEventAfterAdvance]
  case fs => rw [subStep_fs, subStep_fs, h.fs, h.fsDiv_eq]
  case env => rw [subStep_env, subStep_env, h.fs, h.env, h.dispatchedIndex_eq]
  case acc => rw [hacc, hacc', h.acc]
  case fault => rw [hfault, hfault', h.fault]
  case time => rw [htime, htime', h.time]
  case ch =>
    rw [subStep_ch, subStep_ch]
    exact h.ch.chAdvance _ _ _ _ n

theorem ctlLoop (fuel : Nat) : ∀ (rem : Nat) {s s' : State}, SameButDuty s s' →
    SameButDuty (ctlLoop fuel rem s) (ctlLoop fuel rem s') := by
  induction fuel with
  | zero => exact fun _ _ _ h => h
  | succ fuel ih =>
    intro rem s s' h
    rw [Machine.ctlLoop, Machine.ctlLoop, h.fs]
    split
    · exact h
    · exact ih _ (h.subStep _)

theorem consume (h : SameButDuty s s') (n : Nat) : SameButDuty (consume n s) (consume n s') :=
  (ctlLoop _ _ h).elapse n

/-! ### The commands -/

theorem commandEffect (h : SameButDuty s s') (i : Instr) :
    SameButDuty (commandEffect i s) (commandEffect i s') := by
  cases i with
  | setfreq f =>
    simp only [Machine.commandEffect]
    split
    · exact h.raise _
    · refine (h.withCh ?_).respond _ _
      exact ⟨rfl, h.ch.counter, h.ch.phase⟩
  | setduty d =>
    refine (h.withCh ?_).respond _ _
    exact ⟨h.ch.period, h.ch.counter, h.ch.phase⟩
  | setenv iv dir per => exact ((h.withEnv (by rw [h.env])).withTrigFresh _).respond _ _
  | trig =>
    refine (((h.withEnv (congrArg envInit h.env)).withCh ?_).withTrigFresh _).respond _ _
    exact ⟨h.ch.period, h.ch.period, h.ch.phase⟩
  | update n =>
    simp only [Machine.commandEffect, h.unconfigured_eq]
    split
    · exact h.raise _
    · exact (h.consume _).respond _ _
  | sample =>
    simp only [Machine.commandEffect, h.wholeCycles_eq, h.unconfigured_eq]
    split
    · exact h.raise _
    · exact (((h.consume _).withAcc h.accResidue_eq).emit _ _).respond _ _
  | rdsample => exact h.respond _ _
  | rdvol => exact h.respond _ _

/-- Executing the same command keeps two blocks the same but for the duty pattern, fault or none. -/
theorem exec {t t' : State} {i : Instr} (h : SameButDuty s s') (ht : exec i s = .next t) (ht' : exec i s' = .next t') :
    SameButDuty t t' := by
  rcases exec_cases ht with ⟨hf, rfl⟩ | ⟨c, hf, rfl⟩
  · rw [exec_clear (h.fault.trans hf), Host.Outcome.next.injEq] at ht'
    exact ht' ▸ h.commandEffect i
  · rw [exec_latched (h.fault.trans hf), Host.Outcome.next.injEq] at ht'
    exact ht' ▸ h.respond _ _

end SameButDuty

/-- Settles O57: the hypotheses are `SameButDuty` of the two states, which every command keeps. -/
theorem dutyPatternReachesOnlyTheSample : Obligations.DutyPatternReachesOnlyTheSample := by
  intro i s s' t t' table hcfg hfs henv hacc hfault htime ⟨hperiod, hcounter, hphase⟩ ht ht'
  have h : SameButDuty s s' :=
    { clockHz := by rw [hcfg], outputHz := by rw [hcfg], fsEventAfterAdvance := by rw [hcfg],
      fs := hfs, env := henv, acc := hacc, fault := hfault, time := htime, ch := ⟨hperiod, hcounter, hphase⟩ }
  have r : SameButDuty t t' := h.exec ht ht'
  exact ⟨r.fs, r.env, r.acc, r.fault, r.time, r.ch.period, r.ch.counter, r.ch.phase⟩

end Sys2Proof.Machine

/-! The statement of 10_state.md: every word gets exactly one response, and a repeated read repeats its answer (O46). -/

namespace Sys2Proof.Machine

/-! ## One word, one response (R27) -/

/-- `t` has exactly one response more than `s`. -/
def OneMoreResponse (s t : State) : Prop := ∃ r, t.responses = s.responses ++ [r]

theorem oneMoreResponse_raise (c : FaultCode) (s : State) : OneMoreResponse s (s.raise c) := ⟨_, rfl⟩

/-- A response given by a state with the same responses as `s` so far is one more than `s` has. -/
theorem oneMoreResponse_respond {s t : State} (h : t.responses = s.responses) (r : Response) :
    OneMoreResponse s (t.respond r) :=
  ⟨r, congrArg (· ++ [r]) h⟩

/-- R84: a latched fault answers in place of the command, so it leaves the count of responses at one more. -/
theorem OneMoreResponse.unlessFaulted {s run : State} (h : OneMoreResponse s run) :
    OneMoreResponse s (s.unlessFaulted run) := by
  obtain ⟨-, hrun⟩ | ⟨c, -, hresp⟩ := s.unlessFaulted_cases run
  · rwa [hrun]
  · rw [hresp]
    exact oneMoreResponse_respond rfl _

/-- Every command answers once: a fault code where it raises one, its own response otherwise. -/
theorem commandEffect_oneMoreResponse (i : Instr) (s : State) : OneMoreResponse s (commandEffect i s) := by
  cases i with
  | setfreq f =>
    rw [commandEffect]
    split
    · exact oneMoreResponse_raise _ s
    · exact oneMoreResponse_respond rfl _
  | update n =>
    rw [commandEffect]
    split
    · exact oneMoreResponse_raise _ s
    · exact oneMoreResponse_respond (consume_responses _ s) _
  | sample =>
    rw [commandEffect]
    split
    · exact oneMoreResponse_raise _ s
    · exact oneMoreResponse_respond (consume_responses _ s) _
  | setduty d => exact oneMoreResponse_respond rfl _
  | setenv iv dir per => exact oneMoreResponse_respond rfl _
  | trig => exact oneMoreResponse_respond rfl _
  | rdsample => exact oneMoreResponse_respond rfl _
  | rdvol => exact oneMoreResponse_respond rfl _

/-- Every word, command or reserved, answers a next state with exactly one response more. -/
theorem runWord_oneMoreResponse (w : Word) (s : State) : ∃ t, runWord w s = .next t ∧ OneMoreResponse s t := by
  cases hd : decode w with
  | command i =>
    rw [runWord_of_command hd, exec_eq]
    exact ⟨_, rfl, (commandEffect_oneMoreResponse i s).unlessFaulted⟩
  | reserved =>
    rw [runWord_of_reserved hd, execReserved_eq]
    exact ⟨_, rfl, (oneMoreResponse_raise _ s).unlessFaulted⟩

/-! ## Repeated reads (R27, R66, R57) -/

/-- With no fault latched, a read of state only answers, and its answer does not depend on the responses given so far. -/
theorem commandEffect_read {i : Instr} (hi : i = .rdsample ∨ i = .rdvol) (s : State) :
    ∃ r, ∀ rs, commandEffect i { s with responses := rs } = { s with responses := rs ++ [r] } := by
  obtain rfl | rfl := hi
  · exact ⟨.value s.ch.sample, fun _ => rfl⟩
  · exact ⟨.value s.env.volume, fun _ => rfl⟩

/-- A read of state, fault or none, only answers, and its answer does not depend on the responses given so far. -/
theorem exec_read {i : Instr} (hi : i = .rdsample ∨ i = .rdvol) (s : State) :
    ∃ r, ∀ rs, exec i { s with responses := rs } = .next { s with responses := rs ++ [r] } := by
  obtain hf | ⟨c, hf⟩ := Option.eq_none_or_eq_some s.fault
  · obtain ⟨r, hr⟩ := commandEffect_read hi s
    exact ⟨r, fun rs => hr rs ▸ exec_clear (s := { s with responses := rs }) hf i⟩
  · exact ⟨.faulted c, fun rs => exec_latched (s := { s with responses := rs }) hf i⟩

theorem execAll_cons_next {i : Instr} {s t : State} (h : exec i s = .next t) (is : List Instr) :
    execAll (i :: is) s = execAll is t := by
  rw [execAll, h]

/-- Settles O46: a word answers once whatever it decodes to, and the second of two reads runs on a state that differs
from the first one's in the responses only. -/
theorem everyWordGetsOneResponse : Obligations.EveryWordGetsOneResponse := by
  refine ⟨fun w s => ?_, fun s i hi => ?_⟩
  · obtain ⟨t, ht, r, hr⟩ := runWord_oneMoreResponse w s
    exact ⟨t, r, ht, hr⟩
  · obtain ⟨r, hread⟩ := exec_read hi s
    have hfirst : exec i s = .next { s with responses := s.responses ++ [r] } := hread s.responses
    have hsecond : exec i { s with responses := s.responses ++ [r] } =
        .next { s with responses := s.responses ++ [r, r] } := by
      rw [hread, List.append_assoc, List.singleton_append]
    refine ⟨_, r, ?_, rfl⟩
    rw [execAll_cons_next hfirst, execAll_cons_next hsecond, execAll]

end Sys2Proof.Machine

/-! The statements of 20_memory.md: what a byte transport carries (O8), which command writes which element (O19), and
that a step answers within the contract (O49). -/

namespace Sys2Proof

/-! ## The byte transport (R31, R32) -/

/-- R31: the word four transported bytes carry, as a number. -/
theorem wordOfBytes_toNat (b0 b1 b2 b3 : Byte) :
    (wordOfBytes b0 b1 b2 b3).toNat = b0.toNat + 2 ^ 8 * b1.toNat + 2 ^ 16 * b2.toNat + 2 ^ 24 * b3.toNat := by
  simp only [wordOfBytes, toNat_append_add]
  omega

/-- R31: the four bytes of a word carry that word. -/
theorem wordsOfBytes_bytesOfWord_append (w : Word) (rest : List Byte) :
    wordsOfBytes (bytesOfWord w ++ rest) = w :: wordsOfBytes rest := by
  suffices h : wordOfBytes (w.extractLsb' 0 8) (w.extractLsb' 8 8) (w.extractLsb' 16 8) (w.extractLsb' 24 8) = w from
    congrArg (· :: wordsOfBytes rest) h
  have hw := w.isLt
  apply BitVec.eq_of_toNat_eq
  simp only [wordOfBytes_toNat, field_toNat]
  omega

/-- R32: fewer than four bytes present no command. -/
theorem wordsOfBytes_of_length_lt : ∀ {tail : List Byte}, tail.length < 4 → wordsOfBytes tail = []
  | [], _ | [_], _ | [_, _], _ | [_, _, _], _ => rfl
  | _ :: _ :: _ :: _ :: _, h => absurd h (by simp)

/-- R31, R32: the words of a transported sequence are those sent, whatever part of a word follows them. -/
theorem wordsOfBytes_flatMap_append {tail : List Byte} (htail : tail.length < 4) (ws : List Word) :
    wordsOfBytes (ws.flatMap bytesOfWord ++ tail) = ws := by
  induction ws with
  | nil => exact wordsOfBytes_of_length_lt htail
  | cons w ws ih => rw [List.flatMap_cons, List.append_assoc, wordsOfBytes_bytesOfWord_append, ih]

namespace Machine

@[simp] theorem State.issueWords_nil (s : State) : s.issueWords [] = s :=
  congrArg s.withInbox (List.append_nil s.inbox)

/-- Settles O8: four bytes as a number, induction on the words sent, and a part of a word is no word to issue. -/
theorem transportCarriesWholeLittleEndianWords : Obligations.TransportCarriesWholeLittleEndianWords := by
  refine ⟨fun b0 b1 b2 b3 => ?_, fun ws tail htail => wordsOfBytes_flatMap_append htail ws, fun s tail htail => ?_⟩
  · rw [wordsOfBytes_four, wordsOfBytes_nil, ← wordOfBytes_toNat, BitVec.ofNat_toNat, BitVec.setWidth_eq]
  · rw [State.issueBytes, wordsOfBytes_of_length_lt htail, State.issueWords_nil]

/-! ## Which command writes which element (10_state.md, Summary table) -/

/-! ### What an advance leaves alone (R64, R68, R55) -/

@[simp] theorem ctlAdvance_ch_period (n : Nat) (s : State) : (ctlAdvance n s).ch.period = s.ch.period :=
  (ctlAdvance_settings n s).1
@[simp] theorem ctlAdvance_ch_duty (n : Nat) (s : State) : (ctlAdvance n s).ch.duty = s.ch.duty :=
  (ctlAdvance_settings n s).2.1
@[simp] theorem ctlAdvance_env_initial (n : Nat) (s : State) : (ctlAdvance n s).env.initial = s.env.initial :=
  (ctlAdvance_settings n s).2.2.1
@[simp] theorem ctlAdvance_env_dir (n : Nat) (s : State) : (ctlAdvance n s).env.dir = s.env.dir :=
  (ctlAdvance_settings n s).2.2.2.1
@[simp] theorem ctlAdvance_env_period (n : Nat) (s : State) : (ctlAdvance n s).env.period = s.env.period :=
  (ctlAdvance_settings n s).2.2.2.2

/-- R55: no advance sets the flag of a frozen envelope. -/
theorem ctlAdvance_updating_of_false {s : State} (h : s.env.updating = false) (n : Nat) :
    (ctlAdvance n s).env.updating = false := by
  refine ctlAdvance_keeps (P := fun t => t.env.updating = false) (fun k t ht => ?_) n h
  rw [subStep_env]
  split
  · exact ht
  · exact envTick_updating_of_false ht

/-! ### The writer columns -/

/-- Settles O19: a latched fault leaves only an answer, as a raised one leaves only its code and an answer; otherwise
each command writes its own elements, and those of UPDATE and SAMPLE are the advance's. -/
theorem onlyTheNamedCommandsWrite : Obligations.OnlyTheNamedCommandsWrite := by
  intro i s t h
  obtain ⟨-, rfl⟩ | ⟨c, -, rfl⟩ := exec_cases h
  · cases i with
    | setfreq f =>
      rw [commandEffect]
      split
      · simp [State.raise_eq]
      · simp
    | update n =>
      rw [commandEffect]
      split
      · simp [State.raise_eq]
      · simp +contextual [ctlAdvance_updating_of_false]
    | sample =>
      rw [commandEffect]
      split
      · simp [State.raise_eq]
      · simp +contextual [ctlAdvance_updating_of_false]
    | setduty d => simp [commandEffect]
    | setenv iv dir per => simp [commandEffect]
    | trig => simp [commandEffect]
    | rdsample => simp [commandEffect]
    | rdvol => simp [commandEffect]
  · simp +contextual

/-! ## A step answers within the contract (R36, R89, D11) -/

theorem step_of_not_wf {s : State} (h : s.cfg.wf = false) : step s = .refused .illFormedConfiguration := by
  rw [step, h, if_neg Bool.false_ne_true]

/-- R89, R92: with nothing presented a step keeps the state. -/
theorem step_of_inbox_nil {s : State} (hwf : s.cfg.wf = true) (hin : s.inbox = []) : step s = .next s := by
  rw [step, if_pos hwf, nextEvent, hin]

/-- R89: the block responds to whatever the host presents, two commands at once excepted. -/
theorem perform_completes {e : HostEvent} (he : ∀ w₁ w₂, e ≠ .concurrent w₁ w₂) (s : State) :
    ∃ t, perform e s = .next t := by
  cases e with
  | issue w =>
    obtain ⟨t, ht, -⟩ := runWord_oneMoreResponse w s
    exact ⟨t, ht⟩
  | reset => exact ⟨_, rfl⟩
  | concurrent w₁ w₂ => exact absurd rfl (he w₁ w₂)

/-- Settles O49: the host's next event decides whether a step of a well-formed block completes. -/
theorem stepCompletesUnlessOutsideTheContract : Obligations.StepCompletesUnlessOutsideTheContract := by
  refine fun s => ⟨fun hwf hone => ?_, fun hwf w₁ w₂ rest hin => step_of_inbox_cons hwf hin, step_of_not_wf⟩
  cases hin : s.inbox with
  | nil => exact ⟨s, step_of_inbox_nil hwf hin⟩
  | cons e rest =>
    rw [step_of_inbox_cons hwf hin]
    exact perform_completes (fun w₁ w₂ he => hone w₁ w₂ rest (he ▸ hin)) _

end Machine

end Sys2Proof

/-! The statements of 30_encoding.md: decoding as R48 gives it (O1), the round trip between words and commands (O2, O3),
the opcode map (O4), the reserved words (O5), the assembler's operand table (O7), and `RUN` as one advance (O40). -/

namespace Sys2Proof

/-! ## Decoding, on the opcode and the payload as numbers (R48) -/

/-- R48's `Decode` of a word with opcode `op` and payload `low`, its low 28 bits. -/
def decodeFields (op low : Nat) : Decoded :=
  if op = 1 ∧ low / 2 ^ 11 = 0 then .command (.setfreq (BitVec.ofNat 11 (low % 2 ^ 11)))
  else if op = 2 ∧ low / 2 ^ 2 = 0 then .command (.setduty (BitVec.ofNat 2 (low % 2 ^ 2)))
  else if op = 3 ∧ low / 2 ^ 8 = 0 then
    .command (.setenv (BitVec.ofNat 4 (low / 2 ^ 4 % 2 ^ 4))
      (if low / 2 ^ 3 % 2 = 1 then .increase else .decrease) (BitVec.ofNat 3 (low % 2 ^ 3)))
  else if op = 4 ∧ low = 0 then .command .trig
  else if op = 5 then .command (.update (BitVec.ofNat 28 low))
  else if op = 6 ∧ low = 0 then .command .sample
  else if op = 7 ∧ low = 0 then .command .rdsample
  else if op = 8 ∧ low = 0 then .command .rdvol
  else .reserved

/-- A field below the opcode is a field of the payload. -/
theorem payload_field_toNat (w : Word) {lo len : Nat} (h : lo + len ≤ 28) :
    (w.extractLsb' lo len).toNat = w.toNat % 2 ^ 28 / 2 ^ lo % 2 ^ len := by
  rw [field_toNat, ← Nat.mod_mul_right_div_self, ← Nat.mod_mul_right_div_self, ← pow_add,
    Nat.mod_mod_of_dvd _ (pow_dvd_pow 2 h)]

theorem payload_field_eq_ofNat (w : Word) {lo len : Nat} (h : lo + len ≤ 28) :
    w.extractLsb' lo len = BitVec.ofNat len (w.toNat % 2 ^ 28 / 2 ^ lo % 2 ^ len) := by
  rw [← payload_field_toNat w h, BitVec.ofNat_toNat, BitVec.setWidth_eq]

/-- The payload's bits from `lo` up are zero exactly when the payload is below `2 ^ lo`. -/
theorem payload_top_eq_zero_iff (w : Word) {lo len : Nat} (h : lo + len = 28) :
    w.extractLsb' lo len = 0#len ↔ w.toNat % 2 ^ 28 / 2 ^ lo = 0 := by
  rw [field_eq_zero_iff, ← Nat.mod_mul_right_div_self, ← pow_add, h]

theorem opcodeOf_eq_iff (w : Word) (c : BitVec 4) : opcodeOf w = c ↔ w.toNat / 2 ^ 28 = c.toNat := by
  rw [← BitVec.toNat_inj, opcodeOf_toNat]

theorem directionOfBit_ofNat {n : Nat} (h : n < 2) :
    directionOfBit (BitVec.ofNat 1 n) = if n = 1 then .increase else .decrease := by
  interval_cases n <;> rfl

/-- R48: the decoder reads the opcode and the payload and nothing else. -/
theorem decode_eq_decodeFields (w : Word) : decode w = decodeFields (w.toNat / 2 ^ 28) (w.toNat % 2 ^ 28) := by
  have hdir : directionOfBit (w.extractLsb' 3 1) =
      if w.toNat % 2 ^ 28 / 2 ^ 3 % 2 = 1 then .increase else .decrease := by
    rw [payload_field_eq_ofNat w (by omega)]
    exact directionOfBit_ofNat (Nat.mod_lt _ (by omega))
  have hempty : w.extractLsb' 0 28 = 0#28 ↔ w.toNat % 2 ^ 28 = 0 := by
    rw [payload_top_eq_zero_iff w (by omega), pow_zero, Nat.div_one]
  have htop (lo len : Nat) (h : lo + len = 28) := payload_top_eq_zero_iff w h
  have hlow (len : Nat) (h : len ≤ 28) : w.extractLsb' 0 len = BitVec.ofNat len (w.toNat % 2 ^ 28 % 2 ^ len) := by
    rw [payload_field_eq_ofNat w (by omega), pow_zero, Nat.div_one]
  simp only [decode, decodeFields, opcodeOf_eq_iff, hdir, hempty, htop 11 17 rfl, htop 2 26 rfl, htop 8 20 rfl]
  simp only [hlow 11 (by omega), hlow 2 (by omega), hlow 3 (by omega), hlow 28 le_rfl, Nat.mod_mod,
    payload_field_eq_ofNat w (lo := 4) (len := 4) (by omega)]
  rfl

/-- Settles O1: the decoder on numbers is R48's, and a reserved word raises code 1. -/
theorem decodeFollowsTheRule : Obligations.DecodeFollowsTheRule :=
  ⟨decode_eq_decodeFields, fun _ _ hf hd => Machine.runWord_of_reserved_clear hd hf⟩

/-! ## The round trip (R48, R50) -/

/-- A word is decoded by the opcode and the payload it is the sum of. -/
theorem decode_of_toNat_eq {w : Word} {op low : Nat} (h : w.toNat = op * 2 ^ 28 + low) (hlow : low < 2 ^ 28) :
    decode w = decodeFields op low := by
  have hop : w.toNat / 2 ^ 28 = op := by omega
  have hpayload : w.toNat % 2 ^ 28 = low := by omega
  rw [decode_eq_decodeFields, hop, hpayload]

theorem decode_encode_setenv (iv : BitVec 4) (dir : Direction) (per : BitVec 3) :
    decode (encode (.setenv iv dir per)) = .command (.setenv iv dir per) := by
  have hiv := iv.isLt
  have hper := per.isLt
  have hbit := (bitOfDirection dir).isLt
  have hdir : directionOfBit (BitVec.ofNat 1 (bitOfDirection dir).toNat) = dir := by simp
  rw [directionOfBit_ofNat hbit] at hdir
  have hw := encode_setenv_toNat iv dir per
  generalize (bitOfDirection dir).toNat = b at hbit hdir hw
  have hb : (iv.toNat * 16 + b * 8 + per.toNat) / 2 ^ 3 % 2 = b := by omega
  have hiv' : (iv.toNat * 16 + b * 8 + per.toNat) / 2 ^ 4 % 2 ^ 4 = iv.toNat := by omega
  have hper' : (iv.toNat * 16 + b * 8 + per.toNat) % 2 ^ 3 = per.toNat := by omega
  have htop : (iv.toNat * 16 + b * 8 + per.toNat) / 2 ^ 8 = 0 := by omega
  rw [decode_of_toNat_eq (op := 3) (low := iv.toNat * 16 + b * 8 + per.toNat) (by omega) (by omega), decodeFields,
    htop, hb, hdir, hiv', hper']
  simp

/-- Decoding a command's word gives the command back. -/
@[simp] theorem decode_encode (i : Instr) : decode (encode i) = .command i := by
  cases i with
  | setfreq f =>
    have hf : f.toNat / 2 ^ 11 = 0 := Nat.div_eq_of_lt f.isLt
    rw [decode_of_toNat_eq (op := 1) (encode_setfreq_toNat f) (by omega)]
    rw [decodeFields, hf, Nat.mod_eq_of_lt f.isLt]
    simp
  | setduty d =>
    have hd : d.toNat / 2 ^ 2 = 0 := Nat.div_eq_of_lt d.isLt
    rw [decode_of_toNat_eq (op := 2) (encode_setduty_toNat d) (by omega)]
    rw [decodeFields, hd, Nat.mod_eq_of_lt d.isLt]
    simp
  | setenv iv dir per => exact decode_encode_setenv iv dir per
  | update n =>
    rw [decode_of_toNat_eq (op := 5) (encode_update_toNat n) n.isLt]
    simp [decodeFields]
  | trig => rfl
  | sample => rfl
  | rdsample => rfl
  | rdvol => rfl

/-- A word that decodes to a command is that command's word: the decoder's test fixes the bits that are no operand. -/
theorem encode_of_decode {w : Word} {i : Instr} (h : decode w = .command i) : encode i = w := by
  have hw := w.isLt
  apply BitVec.eq_of_toNat_eq
  rw [decode_eq_decodeFields, decodeFields] at h
  split_ifs at h <;> obtain rfl := Decoded.command.inj h
  · rw [encode_setfreq_toNat, BitVec.toNat_ofNat]
    omega
  · rw [encode_setduty_toNat, BitVec.toNat_ofNat]
    omega
  · rw [encode_setenv_toNat, BitVec.toNat_ofNat, BitVec.toNat_ofNat, bitOfDirection, BitVec.toNat_ofNat]
    omega
  · rw [encode_setenv_toNat, BitVec.toNat_ofNat, BitVec.toNat_ofNat, bitOfDirection, BitVec.toNat_ofNat]
    omega
  · show 0x40000000 = w.toNat
    omega
  · rw [encode_update_toNat, BitVec.toNat_ofNat]
    omega
  · show 0x60000000 = w.toNat
    omega
  · show 0x70000000 = w.toNat
    omega
  · show 0x80000000 = w.toNat
    omega

/-- Words and commands: the decoder accepts exactly the encoder's words. -/
theorem decode_eq_command_iff {w : Word} {i : Instr} : decode w = .command i ↔ encode i = w :=
  ⟨encode_of_decode, fun h => h ▸ decode_encode i⟩

/-- Settles O2: each command's word, as opcode and payload, decodes back. -/
theorem decodeOfEncodeIsTheCommand : Obligations.DecodeOfEncodeIsTheCommand := decode_encode

/-- Settles O3: the test that accepts the word and the operands it hands on leave no bit of it open. -/
theorem encodeOfDecodeIsTheWord : Obligations.EncodeOfDecodeIsTheWord := fun _ _ => encode_of_decode

/-! ## The opcode map (R45) -/

/-- A command's word has its row's fixed bits. -/
theorem encode_and_mask (i : Instr) : encode i &&& i.row.mask = i.row.value := by
  cases i with
  | setfreq f => exact Laws.MatchesRow.setfreq f
  | setduty d => exact Laws.MatchesRow.setduty d
  | setenv iv dir per => exact Laws.MatchesRow.setenv iv dir per
  | trig => exact Laws.MatchesRow.trig
  | update n => exact Laws.MatchesRow.update n
  | sample => exact Laws.MatchesRow.sample
  | rdsample => exact Laws.MatchesRow.rdsample
  | rdvol => exact Laws.MatchesRow.rdvol

/-- A word with a row's fixed bits is the word of one of the row's commands: its other bits are the operands. -/
theorem exists_encode_of_and_mask {w : Word} {i : Instr} (h : w &&& i.row.mask = i.row.value) :
    ∃ j, j.row = i.row ∧ encode j = w := by
  have hw := w.isLt
  cases i with
  | setfreq f =>
    replace h : w.toNat / 2 ^ 11 * 2 ^ 11 = 0x10000000 := (and_high_mask_eq_iff (by omega) rfl).mp h
    refine ⟨.setfreq (w.extractLsb' 0 11), rfl, BitVec.eq_of_toNat_eq ?_⟩
    rw [encode_setfreq_toNat, field_toNat]
    omega
  | setduty d =>
    replace h : w.toNat / 2 ^ 2 * 2 ^ 2 = 0x20000000 := (and_high_mask_eq_iff (by omega) rfl).mp h
    refine ⟨.setduty (w.extractLsb' 0 2), rfl, BitVec.eq_of_toNat_eq ?_⟩
    rw [encode_setduty_toNat, field_toNat]
    omega
  | setenv iv dir per =>
    replace h : w.toNat / 2 ^ 8 * 2 ^ 8 = 0x30000000 := (and_high_mask_eq_iff (by omega) rfl).mp h
    refine ⟨.setenv (w.extractLsb' 4 4) (directionOfBit (w.extractLsb' 3 1)) (w.extractLsb' 0 3), rfl,
      BitVec.eq_of_toNat_eq ?_⟩
    rw [encode_setenv_toNat, bitOfDirection_directionOfBit, field_toNat, field_toNat, field_toNat]
    omega
  | update n =>
    replace h : w.toNat / 2 ^ 28 * 2 ^ 28 = 0x50000000 := (and_high_mask_eq_iff (by omega) rfl).mp h
    refine ⟨.update (w.extractLsb' 0 28), rfl, BitVec.eq_of_toNat_eq ?_⟩
    rw [encode_update_toNat, field_toNat]
    omega
  | trig => exact ⟨.trig, rfl, h.symm.trans BitVec.and_allOnes⟩
  | sample => exact ⟨.sample, rfl, h.symm.trans BitVec.and_allOnes⟩
  | rdsample => exact ⟨.rdsample, rfl, h.symm.trans BitVec.and_allOnes⟩
  | rdvol => exact ⟨.rdvol, rfl, h.symm.trans BitVec.and_allOnes⟩

/-- R45: mask and match of a command's row select the words that decode to a command of that row. -/
theorem and_mask_eq_value_iff (w : Word) (i : Instr) :
    w &&& i.row.mask = i.row.value ↔ ∃ j, j.row = i.row ∧ decode w = .command j := by
  constructor
  · intro h
    obtain ⟨j, hj, rfl⟩ := exists_encode_of_and_mask h
    exact ⟨j, hj, decode_encode j⟩
  · rintro ⟨j, hj, hd⟩
    rw [← encode_of_decode hd, ← hj]
    exact encode_and_mask j

theorem Instr.exists_iff {p : Instr → Prop} :
    (∃ i, p i) ↔ (∃ f, p (.setfreq f)) ∨ (∃ d, p (.setduty d)) ∨ (∃ iv dir per, p (.setenv iv dir per)) ∨ p .trig ∨
      (∃ n, p (.update n)) ∨ p .sample ∨ p .rdsample ∨ p .rdvol := by
  constructor
  · rintro ⟨i, hi⟩
    cases i with
    | setfreq f => exact .inl ⟨f, hi⟩
    | setduty d => exact .inr (.inl ⟨d, hi⟩)
    | setenv iv dir per => exact .inr (.inr (.inl ⟨iv, dir, per, hi⟩))
    | trig => exact .inr (.inr (.inr (.inl hi)))
    | update n => exact .inr (.inr (.inr (.inr (.inl ⟨n, hi⟩))))
    | sample => exact .inr (.inr (.inr (.inr (.inr (.inl hi)))))
    | rdsample => exact .inr (.inr (.inr (.inr (.inr (.inr (.inl hi))))))
    | rdvol => exact .inr (.inr (.inr (.inr (.inr (.inr (.inr hi))))))
  · rintro (⟨f, h⟩ | ⟨d, h⟩ | ⟨iv, dir, per, h⟩ | h | ⟨n, h⟩ | h | h | h) <;> exact ⟨_, h⟩

/-- Settles O4: of the commands, those of a row are the ones of its mnemonic. -/
theorem maskAndMatchSelectTheMnemonic : Obligations.MaskAndMatchSelectTheMnemonic := by
  refine ⟨rfl, fun w => ⟨?_, ?_, ?_, ?_, ?_, ?_, ?_, ?_⟩⟩
  · simpa [Instr.exists_iff, Instr.row] using and_mask_eq_value_iff w (.setfreq 0)
  · simpa [Instr.exists_iff, Instr.row] using and_mask_eq_value_iff w (.setduty 0)
  · simpa [Instr.exists_iff, Instr.row] using and_mask_eq_value_iff w (.setenv 0 .decrease 0)
  · simpa [Instr.exists_iff, Instr.row] using and_mask_eq_value_iff w .trig
  · simpa [Instr.exists_iff, Instr.row] using and_mask_eq_value_iff w (.update 0)
  · simpa [Instr.exists_iff, Instr.row] using and_mask_eq_value_iff w .sample
  · simpa [Instr.exists_iff, Instr.row] using and_mask_eq_value_iff w .rdsample
  · simpa [Instr.exists_iff, Instr.row] using and_mask_eq_value_iff w .rdvol

/-! ## Reserved words (R46, R47) -/

/-- The rows of the opcode map are the rows of the commands. -/
theorem mem_opcodeMap_iff {r : OpcodeRow} : r ∈ opcodeMap ↔ ∃ i : Instr, i.row = r := by
  constructor
  · intro hr
    obtain ⟨i, -, hi⟩ := List.mem_map.mp (show r ∈ [.setfreq 0, .setduty 0, .setenv 0 .decrease 0, .trig,
      .update 0, .sample, .rdsample, .rdvol].map Instr.row from hr)
    exact ⟨i, hi⟩
  · rintro ⟨i, rfl⟩
    cases i <;> simp [opcodeMap, Instr.row]

theorem opcodeMap_opcode_range : ∀ r ∈ opcodeMap, opcodeOf r.value ≠ 0#4 ∧ (opcodeOf r.value).toNat < 9 := by decide

theorem opcodeMap_opcode_surjective :
    ∀ op : BitVec 4, op ≠ 0#4 → op.toNat < 9 → ∃ r ∈ opcodeMap, op = opcodeOf r.value := by decide

theorem opcodeMap_opcode_injective :
    ∀ r ∈ opcodeMap, ∀ r' ∈ opcodeMap, opcodeOf r.value = opcodeOf r'.value → r = r' := by decide

theorem opcodeMap_mask_opcode : ∀ r ∈ opcodeMap, opcodeOf r.mask = BitVec.allOnes 4 := by decide

/-- A word selects only the row of its own opcode: every mask covers the opcode. -/
theorem opcodeOf_eq_of_selects {w : Word} {r : OpcodeRow} (hr : r ∈ opcodeMap) (h : w &&& r.mask = r.value) :
    opcodeOf w = opcodeOf r.value := by
  rw [← h, opcodeOf, opcodeOf, BitVec.extractLsb'_and, ← opcodeOf, ← opcodeOf, opcodeMap_mask_opcode r hr,
    BitVec.and_allOnes]

/-- R46: a word is reserved exactly when no row selects it. -/
theorem decode_eq_reserved_iff (w : Word) : decode w = .reserved ↔ ∀ r ∈ opcodeMap, w &&& r.mask ≠ r.value := by
  constructor
  · intro hd r hr hsel
    obtain ⟨i, rfl⟩ := mem_opcodeMap_iff.mp hr
    obtain ⟨j, -, hj⟩ := (and_mask_eq_value_iff w i).mp hsel
    rw [hd] at hj
    cases hj
  · intro h
    cases hd : decode w with
    | reserved => rfl
    | command i => exact absurd ((and_mask_eq_value_iff w i).mpr ⟨i, rfl, hd⟩) (h _ (mem_opcodeMap_iff.mpr ⟨i, rfl⟩))

/-- Settles O5: an opcode in 1 to 8 has one row, which alone can select the word; any other opcode has none. -/
theorem reservedWordsRaiseCodeOne : Obligations.ReservedWordsRaiseCodeOne := by
  refine ⟨fun w => ?_, fun _ _ hf hd => Machine.runWord_of_reserved_clear hd hf⟩
  rw [decode_eq_reserved_iff]
  constructor
  · intro h
    by_cases h0 : opcodeOf w = 0#4
    · exact .inl h0
    by_cases h9 : 9 ≤ (opcodeOf w).toNat
    · exact .inr (.inl h9)
    obtain ⟨r, hr, hop⟩ := opcodeMap_opcode_surjective _ h0 (by omega)
    exact .inr (.inr ⟨r, hr, hop, h r hr⟩)
  · intro h r hr hsel
    have hop := opcodeOf_eq_of_selects hr hsel
    obtain ⟨hne, hlt⟩ := opcodeMap_opcode_range r hr
    rw [← hop] at hne hlt
    obtain h0 | h9 | ⟨r', hr', hop', hmiss⟩ := h
    · exact hne h0
    · omega
    · obtain rfl := opcodeMap_opcode_injective r hr r' hr' (hop.symm.trans hop')
      exact hmiss hsel

/-! ## The assembler's operand table (R50) -/

/-- Two words with no bit in common, by size, add up under OR. -/
theorem toNat_or_of_dvd_of_lt {x y : Word} {k : Nat} (hx : 2 ^ k ∣ x.toNat) (hy : y.toNat < 2 ^ k) :
    (x ||| y).toNat = x.toNat + y.toNat := by
  obtain ⟨a, ha⟩ := hx
  rw [BitVec.toNat_or, ha, Nat.two_pow_add_eq_or_of_lt hy]

/-- A field that fills the bits below a word's lowest may be added or joined by OR. -/
theorem eq_or_setWidth {w v : Word} {k : Nat} (x : BitVec k) (hk : k ≤ 32) (hv : 2 ^ k ∣ v.toNat)
    (hw : w.toNat = v.toNat + x.toNat) : w = v ||| x.setWidth 32 := by
  have hx : (x.setWidth 32).toNat = x.toNat := BitVec.toNat_setWidth_of_le hk
  apply BitVec.eq_of_toNat_eq
  rw [toNat_or_of_dvd_of_lt hv (hx ▸ x.isLt), hx, hw]

theorem encode_setfreq_eq_or (f : BitVec 11) : encode (.setfreq f) = 0x10000000#32 ||| f.setWidth 32 :=
  eq_or_setWidth f (by omega) (by decide) (encode_setfreq_toNat f)

theorem encode_setduty_eq_or (d : BitVec 2) : encode (.setduty d) = 0x20000000#32 ||| d.setWidth 32 :=
  eq_or_setWidth d (by omega) (by decide) (encode_setduty_toNat d)

theorem encode_update_eq_or (n : BitVec 28) : encode (.update n) = 0x50000000#32 ||| n.setWidth 32 :=
  eq_or_setWidth n (by omega) (by decide) (encode_update_toNat n)

theorem encode_setenv_eq_or (iv : BitVec 4) (dir : Direction) (per : BitVec 3) :
    encode (.setenv iv dir per) = 0x30000000#32 ||| (iv.setWidth 32 <<< 4) |||
      ((bitOfDirection dir).setWidth 32 <<< 3) ||| per.setWidth 32 := by
  have hiv := iv.isLt
  have hbit := (bitOfDirection dir).isLt
  have hivField : (iv.setWidth 32 <<< 4).toNat = iv.toNat * 16 := by
    simp
    omega
  have hdirField : ((bitOfDirection dir).setWidth 32 <<< 3).toNat = (bitOfDirection dir).toNat * 8 := by
    simp
    omega
  have hupper : (0x30000000#32 ||| (iv.setWidth 32 <<< 4) ||| ((bitOfDirection dir).setWidth 32 <<< 3)).toNat =
      0x30000000 + iv.toNat * 16 + (bitOfDirection dir).toNat * 8 := by
    have hiv' : (0x30000000#32 ||| (iv.setWidth 32 <<< 4)).toNat = 0x30000000 + iv.toNat * 16 := by
      rw [toNat_or_of_dvd_of_lt (k := 8) (by decide) (by omega), hivField, BitVec.toNat_ofNat]
    rw [toNat_or_of_dvd_of_lt (k := 4) (by omega) (by omega), hiv', hdirField]
  refine eq_or_setWidth per (by omega) ?_ ?_
  · rw [hupper]
    omega
  · rw [hupper, encode_setenv_toNat]

namespace Machine

/-- A line in range that stands for one command assembles to that command's word. -/
theorem assembleLine_of_expandLine {l : Line} {i : Instr} (hwf : l.wellFormed = true) (hl : expandLine l = [i]) :
    assembleLine l = some [encode i] := by
  rw [assembleLine, if_pos hwf, hl, List.map_singleton]

/-- R50: a line out of range is refused. -/
theorem assembleLine_eq_none {l : Line} (h : l.wellFormed = false) : assembleLine l = none :=
  if_neg (by simp [h])

theorem assembleLine_setfreq {f : Nat} (h : f ≤ 2047) :
    assembleLine (.setfreq f) = some [0x10000000#32 ||| BitVec.ofNat 32 f] := by
  rw [assembleLine_of_expandLine (l := .setfreq f) (decide_eq_true h) rfl, encode_setfreq_eq_or,
    BitVec.setWidth_ofNat_of_le_of_lt (by omega) (by omega)]

theorem assembleLine_setduty {d : Nat} (h : d ≤ 3) :
    assembleLine (.setduty d) = some [0x20000000#32 ||| BitVec.ofNat 32 d] := by
  rw [assembleLine_of_expandLine (l := .setduty d) (decide_eq_true h) rfl, encode_setduty_eq_or,
    BitVec.setWidth_ofNat_of_le_of_lt (by omega) (by omega)]

theorem assembleLine_update {n : Nat} (h : n ≤ 268435455) :
    assembleLine (.update n) = some [0x50000000#32 ||| BitVec.ofNat 32 n] := by
  rw [assembleLine_of_expandLine (l := .update n) (decide_eq_true h) rfl, encode_update_eq_or,
    BitVec.setWidth_ofNat_of_le_of_lt (by omega) (by omega)]

theorem setWidth_bitOfDirection (dir : Direction) :
    (bitOfDirection dir).setWidth 32 = BitVec.ofNat 32 (if dir = .increase then 1 else 0) := by
  cases dir <;> rfl

theorem assembleLine_setenv {iv per : Nat} (dir : Direction) (hiv : iv ≤ 15) (hper : per ≤ 7) :
    assembleLine (.setenv iv dir per) = some [0x30000000#32 ||| (BitVec.ofNat 32 iv <<< 4) |||
      (BitVec.ofNat 32 (if dir = .increase then 1 else 0) <<< 3) ||| BitVec.ofNat 32 per] := by
  have hwf : (Line.setenv iv dir per).wellFormed = true := by simp [Line.wellFormed, hiv, hper]
  rw [assembleLine_of_expandLine hwf rfl, setenvOf, encode_setenv_eq_or, setWidth_bitOfDirection,
    BitVec.setWidth_ofNat_of_le_of_lt (by omega) (by omega), BitVec.setWidth_ofNat_of_le_of_lt (by omega) (by omega)]

theorem assembleLine_setenv_eq_none {iv per : Nat} (dir : Direction) (h : 15 < iv ∨ 7 < per) :
    assembleLine (.setenv iv dir per) = none := by
  apply assembleLine_eq_none
  rw [Line.wellFormed, ← Bool.decide_and]
  exact decide_eq_false (by omega)

/-- Settles O7: in range, the word is the encoder's with its fields joined by OR; out of range, the check refuses. -/
theorem assemblerFollowsTheOperandTable : Obligations.AssemblerFollowsTheOperandTable :=
  ⟨fun _ => assembleLine_setfreq, fun _ => assembleLine_setduty, fun _ dir _ => assembleLine_setenv dir,
    fun _ => assembleLine_update, rfl, rfl, rfl, rfl,
    fun _ _ => assembleLine_eq_none (decide_eq_false (by omega)),
    fun _ _ => assembleLine_eq_none (decide_eq_false (by omega)),
    fun _ dir _ => assembleLine_setenv_eq_none dir,
    fun _ _ => assembleLine_eq_none (decide_eq_false (by omega))⟩

end Machine

end Sys2Proof

namespace Sys2Proof.Machine

/-! ## Two advances in a row are one (R64, R73) -/

@[simp] theorem chAdvance_zero (c : Config) (v : Fin 16) (ch : Channel) : chAdvance c v 0 ch = ch :=
  chLoop_zero_rem c v _ ch

/-- A crossing reloads the counter, so it does not matter how far the counter had come. -/
theorem crossing_withCounter (c : Config) (v : Fin 16) (ch : Channel) (k : Nat) :
    crossing c v { ch with counter := k } = crossing c v ch := rfl

/-- R97: a zero counter crosses before the first cycle is consumed. -/
theorem chAdvance_of_counter_zero (c : Config) (v : Fin 16) {n : Nat} {ch : Channel} (hP : 0 < ch.period) (hn : 0 < n)
    (hc : ch.counter = 0) : chAdvance c v n ch = chAdvance c v n (crossing c v ch) := by
  rw [chAdvance_cross c v hn (by omega), hc, Nat.sub_zero]
  exact chLoop_fuel c v hP hP le_rfl (by omega)

theorem chAdvance_add_of_counter_pos (c : Config) (v : Fin 16) (b a : Nat) : ∀ {ch : Channel}, 0 < ch.period →
    0 < ch.counter → chAdvance c v b (chAdvance c v a ch) = chAdvance c v (a + b) ch := by
  induction a using Nat.strong_induction_on with
  | _ a ih =>
    intro ch hP hc
    rcases Nat.lt_or_ge a ch.counter with ha | ha
    · rw [chAdvance_count c v ha]
      rcases Nat.lt_or_ge (a + b) ch.counter with hab | hab
      · rw [chAdvance_count c v hab, chAdvance_count c v (Nat.lt_sub_iff_add_lt'.mpr hab), Nat.sub_sub]
      · have hleft : b - (ch.counter - a) = a + b - ch.counter := by omega
        have hcross := chAdvance_cross_pos c v (n := b) (ch := { ch with counter := ch.counter - a }) hP
          (Nat.sub_pos_of_lt ha) (Nat.sub_le_iff_le_add'.mpr hab)
        rw [hcross, crossing_withCounter, chAdvance_cross_pos c v hP hc hab, hleft]
    · rw [chAdvance_cross_pos c v hP hc ha, chAdvance_cross_pos c v hP hc (Nat.le_add_right_of_le ha),
        Nat.sub_add_comm ha]
      exact ih _ (by omega) hP hP

/-- Cycle additivity of the channel. -/
theorem chAdvance_add (c : Config) (v : Fin 16) (a b : Nat) {ch : Channel} (hP : 0 < ch.period) :
    chAdvance c v b (chAdvance c v a ch) = chAdvance c v (a + b) ch := by
  rcases Nat.eq_zero_or_pos a with rfl | ha
  · rw [chAdvance_zero, Nat.zero_add]
  rcases Nat.eq_zero_or_pos ch.counter with hc | hc
  · rw [chAdvance_of_counter_zero c v hP ha hc, chAdvance_of_counter_zero c v hP (by omega) hc]
    exact chAdvance_add_of_counter_pos c v b a hP hP
  · exact chAdvance_add_of_counter_pos c v b a hP hc

/-- What the controller needs to advance: a boundary to come, boundaries after it, and crossings. -/
structure Advanceable (s : State) : Prop where
  fsDiv_pos : 1 ≤ s.cfg.fsDiv
  fs_counter_pos : 1 ≤ s.fs.counter
  period_pos : 0 < s.ch.period

theorem Inv.advanceable {s : State} (h : Inv s) (hP : 0 < s.ch.period) : Advanceable s :=
  ⟨Config.wf.fsDiv_pos h.cfg_wf, h.fs_counter_pos, hP⟩

theorem advanceable_subStep {s : State} (h : Advanceable s) (n : Nat) : Advanceable (subStep n s) where
  fsDiv_pos := by simpa using h.fsDiv_pos
  fs_counter_pos := subStep_fs_counter_pos h.fsDiv_pos
  period_pos := by simpa using h.period_pos

theorem advanceable_ctlAdvance {s : State} (h : Advanceable s) (n : Nat) : Advanceable (ctlAdvance n s) :=
  ctlAdvance_keeps (P := Advanceable) (fun k _ hk => advanceable_subStep hk k) n h

@[simp] theorem ctlAdvance_zero (s : State) : ctlAdvance 0 s = s := ctlLoop_zero_rem _ s

/-- An advance that ends before the next boundary is one sub-step. -/
theorem ctlAdvance_inside {n : Nat} {s : State} (h : n < s.fs.counter) :
    ctlAdvance n s =
      { s with ch := chAdvance s.cfg s.env.volume n s.ch, fs := { s.fs with counter := s.fs.counter - n } } := by
  rcases Nat.eq_zero_or_pos n with rfl | hn
  · simp
  · rw [ctlAdvance, ctlLoop_succ hn, Nat.min_eq_left h.le, Nat.sub_self, ctlLoop_zero_rem, subStep_inside h]

/-- An advance that reaches the next boundary is the sub-step up to it, and the advance by what is left. -/
theorem ctlAdvance_boundary {n : Nat} {s : State} (h : Advanceable s) (hn : s.fs.counter ≤ n) :
    ctlAdvance n s = ctlAdvance (n - s.fs.counter) (subStep s.fs.counter s) := by
  have hpos := h.fs_counter_pos
  have h' := advanceable_subStep h s.fs.counter
  rw [ctlAdvance, ctlLoop_succ (by omega), Nat.min_eq_right hn]
  exact ctlLoop_fuel h'.fsDiv_pos h'.fs_counter_pos (by omega) (by omega)

/-- A sub-step up to the boundary may be taken in two parts. -/
theorem subStep_boundary_add {a : Nat} {s : State} (h : Advanceable s) (ha : a < s.fs.counter) :
    subStep (s.fs.counter - a) (ctlAdvance a s) = subStep s.fs.counter s := by
  rw [subStep_boundary (s := s) le_rfl, subStep_boundary (by rw [ctlAdvance_inside ha]), ctlAdvance_inside ha]
  simp only [chAdvance_add _ _ _ _ h.period_pos, Nat.add_sub_cancel' ha.le]

/-- R73: cycle additivity of the controller. -/
theorem ctlAdvance_add {s : State} (h : Advanceable s) (a b : Nat) :
    ctlAdvance b (ctlAdvance a s) = ctlAdvance (a + b) s := by
  induction a using Nat.strong_induction_on generalizing s with
  | _ a ih =>
    rcases Nat.lt_or_ge a s.fs.counter with ha | ha
    · rcases Nat.lt_or_ge (a + b) s.fs.counter with hab | hab
      · rw [ctlAdvance_inside ha, ctlAdvance_inside hab, ctlAdvance_inside (Nat.lt_sub_iff_add_lt'.mpr hab)]
        simp only [chAdvance_add _ _ _ _ h.period_pos, Nat.sub_sub]
      · have hfs : (ctlAdvance a s).fs.counter = s.fs.counter - a := by rw [ctlAdvance_inside ha]
        rw [ctlAdvance_boundary h hab, ctlAdvance_boundary (advanceable_ctlAdvance h a) (by omega), hfs,
          subStep_boundary_add h ha]
        congr 1
        omega
    · have hpos := h.fs_counter_pos
      rw [ctlAdvance_boundary h ha, ctlAdvance_boundary h (by omega), ih _ (by omega) (advanceable_subStep h _),
        Nat.sub_add_comm ha]

/-! ## `RUN n` (R51) -/

theorem SameBlock.refl (s : State) : SameBlock s s := ⟨rfl, rfl, rfl, rfl, rfl, rfl, rfl⟩

theorem SameBlock.trans {s t u : State} (h : SameBlock s t) (h' : SameBlock t u) : SameBlock s u := by
  obtain ⟨hcfg, hfs, hch, henv, hacc, hfault, htime⟩ := h
  obtain ⟨hcfg', hfs', hch', henv', hacc', hfault', htime'⟩ := h'
  exact ⟨hcfg.trans hcfg', hfs.trans hfs', hch.trans hch', henv.trans henv', hacc.trans hacc', hfault.trans hfault',
    htime.trans htime'⟩

/-- What stands at the ports reaches nothing that an advance consumes cycles for. -/
theorem SameBlock.consume {s t : State} (h : SameBlock s t) (n : Nat) : SameBlock (consume n s) (consume n t) := by
  obtain ⟨hcfg, hfs, hch, henv, hacc, hfault, htime⟩ := h
  obtain ⟨hfs', hch', henv'⟩ := ctlAdvance_congr n hcfg hfs hch henv
  exact ⟨by simpa using hcfg, hfs', hch', henv', by simpa using hacc, by simpa using hfault, by simpa using htime⟩

/-- The responses are no part of the block. -/
theorem sameBlock_respond (s : State) (r : Response) : SameBlock (s.respond r) s := .refl s

/-- R73 with master time: consuming cycles in two parts is consuming their sum. -/
theorem consume_consume {s : State} (h : Advanceable s) (a b : Nat) :
    SameBlock (consume b (consume a s)) (consume (a + b) s) := by
  obtain ⟨hfs, hch, henv⟩ :=
    ctlAdvance_congr b (s := consume a s) (t := ctlAdvance a s) rfl rfl rfl rfl
  rw [ctlAdvance_add h] at hfs hch henv
  exact ⟨by simp, hfs, hch, henv, by simp, by simp, by simp [Nat.add_assoc]⟩

theorem advanceable_consume_respond {s : State} (h : Advanceable s) (n : Nat) (r : Response) :
    Advanceable ((consume n s).respond r) := by
  obtain ⟨hD, hfs, hP⟩ := advanceable_ctlAdvance h n
  exact ⟨hD, hfs, hP⟩

/-- R67: with no fault latched and a frequency written, UPDATE consumes its cycles and is acknowledged. -/
theorem exec_update_of_period_pos {s : State} (hf : s.fault = none) (hP : 0 < s.ch.period) (n : BitVec 28) :
    exec (.update n) s = .next ((consume n.toNat s).respond .ack) := by
  have hconf : ¬ unconfigured (cycleCount n) s = true := fun h => hP.ne' ((unconfigured_iff _ s).mp h).2
  rw [exec_clear hf, commandEffect, if_neg hconf, cycleCount]

/-- Any UPDATE commands in a row complete, have the effect of one advance by the sum of their counts, and are each
acknowledged. -/
theorem execAll_updates (ns : List (BitVec 28)) : ∀ {s : State}, s.fault = none → Advanceable s →
    ∃ t, execAll (ns.map .update) s = .next t ∧ SameBlock t (consume (ns.map BitVec.toNat).sum s) ∧
      t.responses = s.responses ++ List.replicate ns.length .ack := by
  induction ns with
  | nil => exact fun {s} _ _ => ⟨s, rfl, .refl s, by simp⟩
  | cons n ns ih =>
    intro s hf h
    obtain ⟨t, ht, hblock, hresp⟩ := ih (s := (consume n.toNat s).respond .ack) (by simpa using hf)
      (advanceable_consume_respond h _ _)
    refine ⟨t, ?_, ?_, ?_⟩
    · rw [List.map_cons, execAll_cons_next (exec_update_of_period_pos hf h.period_pos n), ht]
    · rw [List.map_cons, List.sum_cons]
      exact (hblock.trans ((sameBlock_respond _ _).consume _)).trans (consume_consume h _ _)
    · rw [hresp, State.respond_responses, consume_responses, List.append_assoc, List.length_cons,
        List.replicate_succ, List.singleton_append]

/-- The cycle counts of the UPDATE commands that `RUN n` stands for. -/
def runCounts (n : Nat) : List (BitVec 28) :=
  List.replicate (n / maxUpdate) (BitVec.ofNat 28 maxUpdate) ++
    (if 0 < n % maxUpdate then [BitVec.ofNat 28 (n % maxUpdate)] else [])

theorem expandLine_run (n : Nat) : expandLine (.run n) = (runCounts n).map .update := by
  rw [expandLine, runExpansion, runCounts, List.map_append, List.map_replicate]
  split <;> rfl

theorem runCounts_sum (n : Nat) : ((runCounts n).map BitVec.toNat).sum = n := by
  have hmax : (BitVec.ofNat 28 maxUpdate).toNat = maxUpdate := rfl
  have hrest : (BitVec.ofNat 28 (n % maxUpdate)).toNat = n % maxUpdate :=
    Nat.mod_eq_of_lt ((Nat.mod_lt n (by decide)).trans (by decide))
  have hdiv : n / maxUpdate * maxUpdate + n % maxUpdate = n := Nat.div_add_mod' n maxUpdate
  rw [runCounts, List.map_append, List.map_replicate, hmax, List.sum_append, List.sum_replicate, smul_eq_mul]
  split
  · rw [List.map_singleton, List.sum_singleton, hrest, hdiv]
  · rw [List.map_nil, List.sum_nil]
    omega

/-- Settles O40: `RUN` stands for UPDATE commands whose counts add up to n; `RUN 0` stands for none. -/
theorem runIsOneAdvance : Obligations.RunIsOneAdvance := by
  intro n s hinv hf hn
  rw [expandLine_run]
  rcases hn with rfl | hP
  · exact ⟨s, rfl, .refl s, by simp [runCounts]⟩
  · obtain ⟨t, ht, hblock, hresp⟩ := execAll_updates (runCounts n) hf (hinv.advanceable hP)
    rw [runCounts_sum] at hblock
    rw [List.length_map]
    exact ⟨t, ht, hblock, hresp⟩

end Sys2Proof.Machine

/-! The statements of 41_envelope.md: every step keeps the invariant of reachable states (O53), the envelope tick (O20),
what repeated ticks do (O21), an envelope that stands still (O22), SETENV (O11) and RDVOL (O14). -/

namespace Sys2Proof.Machine

/-! ## The invariant of reachable states (R28)

`Inv` is kept by each operation of the state on its own, so that a command, which is a row of such operations, keeps it by
the lemmas of its operations. Only `consume` needs a premise on the channel: cycles are consumed with a frequency
written. -/

theorem Inv.period_le {s : State} (h : Inv s) : s.ch.period ≤ 8188 := by
  obtain h0 | ⟨f, hf, -, hP⟩ := h.period_range <;> omega

/-! ### Operations that write no element the invariant speaks of -/

theorem Inv.respond {s : State} (h : Inv s) (r : Response) : Inv (s.respond r) := { h with }

theorem Inv.emit {s : State} (h : Inv s) (f : Frame) : Inv (s.emit f) := { h with }

theorem Inv.raise {s : State} (h : Inv s) (c : FaultCode) : Inv (s.raise c) := { h with }

theorem Inv.withInbox {s : State} (h : Inv s) (x : List HostEvent) : Inv (s.withInbox x) := { h with }

theorem Inv.withTrigFresh {s : State} (h : Inv s) (b : Bool) : Inv (s.withTrigFresh b) := { h with }

/-- R84: the answer to a latched fault keeps the invariant, so a command need only keep it where it runs. -/
theorem Inv.unlessFaulted {s run : State} (h : Inv s) (hrun : Inv run) : Inv (s.unlessFaulted run) := by
  obtain ⟨-, hclear⟩ | ⟨c, -, hlatched⟩ := s.unlessFaulted_cases run
  · rwa [hclear]
  · rw [hlatched]
    exact h.respond _

/-! ### Operations that write one element -/

theorem Inv.withEnv {s : State} (h : Inv s) {e : Envelope} (he : e.updating = true → 1 ≤ e.counter.val) :
    Inv (s.withEnv e) :=
  { h with env_counter := he }

theorem Inv.withAcc {s : State} (h : Inv s) {a : Nat} (ha : a < s.cfg.outputHz) : Inv (s.withAcc a) :=
  { h with acc_lt := ha }

/-- R61: a new period. A zero counter may stay, because no time has passed while the period was 0. -/
theorem Inv.withPeriod {s : State} (h : Inv s) {f : BitVec 11} (hf : f ≠ 0#11) :
    Inv (s.withCh { s.ch with period := periodOf f }) := by
  have hpos : 0 < f.toNat := Nat.pos_of_ne_zero fun h0 => hf (BitVec.eq_of_toNat_eq h0)
  have hlt := f.isLt
  refine { h with
    period_range := .inr ⟨f.toNat, hpos, by omega, rfl⟩
    counter_zero := fun h0 => ?_
    time_period := fun _ => Nat.mul_pos (by omega) (by omega) }
  obtain hP | hT := h.counter_zero h0
  · exact .inr (Nat.eq_zero_of_not_pos fun hT => (h.time_period hT).ne' hP)
  · exact .inr hT

/-- R63: the counter reloaded with the period. -/
theorem Inv.withCounterReloaded {s : State} (h : Inv s) : Inv (s.withCh { s.ch with counter := s.ch.period }) :=
  { h with counter_le := h.period_le, counter_zero := .inl }

/-- R54: the counter an initialised envelope starts from is at least 1. -/
theorem envInit_counter_pos (e : Envelope) : 1 ≤ (envInit e).counter.val := by
  rw [envInit_counter_val]
  split <;> omega

/-! ### Consuming cycles (R64, R68) -/

theorem subStep_fs_counter_le {n : Nat} {s : State} (h : s.fs.counter ≤ s.cfg.fsDiv) :
    (subStep n s).fs.counter ≤ s.cfg.fsDiv := by
  rw [subStep_fs]
  split
  · exact (Nat.sub_le _ _).trans h
  · exact le_rfl

/-- R55: a running envelope's counter is at least 1 after a sub-step too. -/
theorem subStep_env_counter_pos {n : Nat} {s : State} (h : s.env.updating = true → 1 ≤ s.env.counter.val) :
    (subStep n s).env.updating = true → 1 ≤ (subStep n s).env.counter.val := by
  rw [subStep_env]
  split
  · exact h
  · exact envTick_counter_pos h

/-- A sub-step keeps the invariant, master time not counted: once time has passed the channel's counter is positive, and
an advance keeps it so. -/
theorem Inv.subStep {s : State} (h : Inv s) (n : Nat) : Inv (subStep n s) := by
  obtain ⟨hcfg, hacc, -, -, -, -, htime, -⟩ := subStep_rest n s
  refine
    { cfg_wf := hcfg ▸ h.cfg_wf
      fs_counter_pos := subStep_fs_counter_pos (Config.wf.fsDiv_pos h.cfg_wf)
      fs_counter_le := hcfg ▸ subStep_fs_counter_le h.fs_counter_le
      period_range := by simpa using h.period_range
      counter_le := by simpa using chAdvance_counter_le _ _ h.period_le h.counter_le
      counter_zero := fun h0 => ?_
      time_period := by simpa [htime] using h.time_period
      env_counter := subStep_env_counter_pos h.env_counter
      acc_lt := by simpa [hacc] using h.acc_lt }
  rw [subStep_ch] at h0 ⊢
  rw [chAdvance_period, htime]
  by_contra hne
  obtain ⟨hP, hT⟩ := not_or.mp hne
  have hc : 0 < s.ch.counter := Nat.pos_of_ne_zero fun hc => hne (h.counter_zero hc)
  exact (chAdvance_counter_pos _ _ n (Nat.pos_of_ne_zero hP) hc).ne' h0

theorem Inv.ctlAdvance {s : State} (h : Inv s) (n : Nat) : Inv (ctlAdvance n s) :=
  ctlAdvance_keeps (P := Inv) (fun k _ hk => hk.subStep k) n h

/-- R97: a positive advance leaves the counter positive, even from a zero counter, which crosses at once. -/
theorem chAdvance_counter_pos_of_pos (c : Config) (v : Fin 16) {n : Nat} {ch : Channel} (hP : 0 < ch.period)
    (hn : 0 < n) : 0 < (chAdvance c v n ch).counter := by
  rcases Nat.eq_zero_or_pos ch.counter with hc | hc
  · rw [chAdvance_of_counter_zero c v hP hn hc]
    exact chAdvance_counter_pos c v n hP hP
  · exact chAdvance_counter_pos c v n hP hc

/-- The first sub-step makes the channel's counter positive, and the others keep it so. -/
theorem ctlAdvance_counter_pos {n : Nat} {s : State} (h : Advanceable s) (hn : 0 < n) :
    0 < (ctlAdvance n s).ch.counter := by
  have hfirst : 0 < min n s.fs.counter := Nat.lt_min.mpr ⟨hn, h.fs_counter_pos⟩
  rw [Machine.ctlAdvance, ctlLoop_succ hn]
  refine (ctlLoop_keeps (P := fun t => 0 < t.ch.period ∧ 0 < t.ch.counter) (fun k t ⟨hP, hc⟩ => ?_) _ _ _ ?_).2
  · rw [subStep_ch, chAdvance_period]
    exact ⟨hP, chAdvance_counter_pos _ _ k hP hc⟩
  · rw [subStep_ch, chAdvance_period]
    exact ⟨h.period_pos, chAdvance_counter_pos_of_pos _ _ h.period_pos hfirst⟩

/-- R67, R75: cycles consumed where the shared check of UPDATE and SAMPLE passes. -/
theorem Inv.consume {s : State} (h : Inv s) {n : Nat} (hn : ¬ unconfigured n s = true) : Inv (consume n s) := by
  rcases Nat.eq_zero_or_pos n with rfl | hpos
  · exact h.ctlAdvance 0
  · have hP : 0 < s.ch.period := Nat.pos_of_ne_zero fun h0 => hn ((unconfigured_iff n s).mpr ⟨hpos, h0⟩)
    have hc := ctlAdvance_counter_pos (h.advanceable hP) hpos
    exact { h.ctlAdvance n with
      counter_zero := fun h0 => absurd h0 hc.ne'
      time_period := fun _ => (ctlAdvance_ch_period n s).symm ▸ hP }

/-! ### Commands and steps -/

theorem Inv.accResidue_lt {s : State} (h : Inv s) : accResidue s < s.cfg.outputHz :=
  Nat.mod_lt _ (Config.wf.outputHz_pos h.cfg_wf)

theorem Inv.commandEffect {s : State} (h : Inv s) (i : Instr) : Inv (commandEffect i s) := by
  cases i with
  | setfreq f =>
    rw [Machine.commandEffect]
    split
    · exact h.raise _
    · exact (h.withPeriod ‹_›).respond _
  | setduty d => exact { h with }
  | setenv iv dir per => exact { h with }
  | trig =>
    have henv : Inv (s.withEnv (envInit s.env)) := h.withEnv fun _ => envInit_counter_pos s.env
    exact (henv.withCounterReloaded.withTrigFresh _).respond _
  | update n =>
    rw [Machine.commandEffect]
    split
    · exact h.raise _
    · exact (h.consume ‹_›).respond _
  | sample =>
    rw [Machine.commandEffect]
    split
    · exact h.raise _
    · have hacc : accResidue s < (Machine.consume (wholeCycles s) s).cfg.outputHz := by simpa using h.accResidue_lt
      exact (((h.consume ‹_›).withAcc hacc).emit _).respond _
  | rdsample => exact h.respond _
  | rdvol => exact h.respond _

/-- R94: the reset state of well-formed parameters. -/
theorem inv_resetOf {c : Config} (hc : c.wf = true) : Inv (State.resetOf c) where
  cfg_wf := hc
  fs_counter_pos := Config.wf.fsDiv_pos hc
  fs_counter_le := le_rfl
  period_range := .inl rfl
  counter_le := Nat.zero_le _
  counter_zero _ := .inl rfl
  time_period h := absurd h (Nat.lt_irrefl 0)
  env_counter h := absurd h Bool.false_ne_true
  acc_lt := Config.wf.outputHz_pos hc

theorem Inv.assertReset {s : State} (h : Inv s) : Inv s.assertReset := { inv_resetOf h.cfg_wf with }

/-- Settles O53: a step is idle, a reset, a command or a reserved word, and each keeps every clause. -/
theorem stepKeepsTheStateInvariant : Obligations.StepKeepsTheStateInvariant := by
  intro s t h hstep
  obtain ⟨-, ⟨-, rfl⟩ | ⟨rest, -, rfl⟩ | ⟨w, rest, -, ⟨i, -, hexec⟩ | ⟨-, hres⟩⟩⟩ := step_cases hstep
  · exact h
  · exact (h.withInbox rest).assertReset
  · rw [exec_eq, Host.Outcome.next.injEq] at hexec
    exact hexec ▸ (h.withInbox rest).unlessFaulted ((h.withInbox rest).commandEffect i)
  · rw [execReserved_eq, Host.Outcome.next.injEq] at hres
    exact hres ▸ (h.withInbox rest).unlessFaulted ((h.withInbox rest).raise _)

/-! ## The envelope tick (R55) -/

theorem stepVolume_val_int (dir : Direction) (v : Fin 16) :
    ((stepVolume dir v).val : Int) = max 0 (min 15 ((v.val : Int) + if dir = .increase then 1 else -1)) := by
  cases dir with
  | decrease => exact Int.toNat_of_nonneg (le_max_left 0 _)
  | increase => exact Int.toNat_of_nonneg (le_max_left 0 _)

theorem updatingAfterStep_running (v : Fin 16) : updatingAfterStep v true = !onRail v := by
  rw [updatingAfterStep]
  cases onRail v <;> rfl

/-- The flag after a running envelope's volume step: cleared by a rail and by nothing else. -/
theorem envStep_updating {e : Envelope} (hu : e.updating = true) :
    (envStep e).updating = !onRail (stepVolume e.dir e.volume) := by
  rw [envStep, hu, updatingAfterStep_running]

/-- Settles O20, case by case of the tick: it stands still, it counts down, or it takes a volume step. -/
theorem envelopeTickFollowsTheRule : Obligations.EnvelopeTickFollowsTheRule := by
  refine fun e => ⟨fun hstill => envTick_still hstill.symm, fun hp hu hc => ?_, fun hp hu hc => ?_⟩
  · rw [envTick_count hp hu hc]
    exact ⟨rfl, rfl⟩
  · rw [envTick_step hp hu hc.le]
    exact ⟨stepVolume_val_int e.dir e.volume, rfl, envStep_updating hu, rfl⟩

/-! ## An envelope that stands still (R55, R56) -/

/-- Settles O22: the only operation of an advance on the envelope is the tick, which leaves this one as it is. -/
theorem stillEnvelopeIsLeftAlone : Obligations.StillEnvelopeIsLeftAlone := by
  intro n s hstill
  refine ctlAdvance_keeps (P := fun t => t.env = s.env) (fun k t ht => ?_) n rfl
  rw [subStep_env, ht, envTick_still hstill, ite_self]

/-! ## Repeated ticks (R56)

A running envelope counts down to its next volume step; the step either lands on the rail of its direction and freezes
the envelope, or leaves it running with the counter reloaded. The induction over the ticks goes from one volume step to
the next. -/

/-- The rail an envelope moves toward. -/
def railOf : Direction → Nat
  | .decrease => 0
  | .increase => 15

/-- The volume `m` volume steps after volume `v`. -/
def volumeAfter : Direction → Nat → Nat → Nat
  | .decrease, v, m => v - m
  | .increase, v, m => min 15 (v + m)

theorem volumeAfter_zero (dir : Direction) (v : Fin 16) : volumeAfter dir v.val 0 = v.val := by
  cases dir with
  | decrease => rfl
  | increase => exact Nat.min_eq_right (Nat.le_of_lt_succ v.isLt)

theorem volumeAfter_rail (dir : Direction) (m : Nat) : volumeAfter dir (railOf dir) m = railOf dir := by
  cases dir with
  | decrease => exact Nat.zero_sub m
  | increase => exact Nat.min_eq_left (Nat.le_add_right 15 m)

theorem volumeAfter_stepVolume (dir : Direction) (v : Fin 16) (m : Nat) :
    volumeAfter dir (stepVolume dir v).val m = volumeAfter dir v.val (1 + m) := by
  cases dir with
  | decrease =>
    rw [stepVolume_decrease_val, volumeAfter, volumeAfter, Nat.sub_sub]
  | increase =>
    rw [stepVolume_increase_val, volumeAfter, volumeAfter]
    omega

/-- Of the two rails, a volume step can land only on the one of its direction. -/
theorem onRail_stepVolume_iff (dir : Direction) (v : Fin 16) :
    onRail (stepVolume dir v) = true ↔ (stepVolume dir v).val = railOf dir := by
  have := v.isLt
  rw [onRail_iff]
  cases dir with
  | decrease =>
    rw [stepVolume_decrease_val, railOf]
    omega
  | increase =>
    rw [stepVolume_increase_val, railOf]
    omega

/-- After a step that missed the rail, the rail is reached only by further steps. -/
theorem reachesRail_after_miss {dir : Direction} {v : Fin 16} (hmiss : onRail (stepVolume dir v) = false) (m : Nat) :
    (1 ≤ m ∧ volumeAfter dir (stepVolume dir v).val m = railOf dir) ↔
      (1 ≤ 1 + m ∧ volumeAfter dir (stepVolume dir v).val m = railOf dir) := by
  refine and_congr_left fun hend => ⟨fun _ => Nat.le_add_right 1 m, fun _ => Nat.one_le_iff_ne_zero.mpr ?_⟩
  rintro rfl
  rw [volumeAfter_zero, ← onRail_stepVolume_iff, hmiss] at hend
  cases hend

theorem expiries_of_lt {c p n : Nat} (h : n < c) : expiries c p n = 0 := if_pos h

/-- After the first expiry the down-counter starts again from its reload value. -/
theorem expiries_of_le {c p n : Nat} (hp : 0 < p) (h : c ≤ n) : expiries c p n = 1 + expiries p p (n - c) := by
  rw [expiries, if_neg h.not_gt, expiries]
  split
  case isTrue hlt => rw [Nat.div_eq_of_lt hlt]
  case isFalse hge => rw [Nat.div_eq_sub_div hp (not_lt.mp hge), Nat.add_comm 1 (_ / p)]

/-- An envelope whose next ticks count and step. -/
structure Running (e : Envelope) : Prop where
  period_ne_zero : e.period.val ≠ 0
  updating : e.updating = true
  counter_pos : 1 ≤ e.counter.val

/-- Ticks that come before the next volume step only count down. -/
theorem envTick_iterate_count {e : Envelope} (h : Running e) (k : Nat) (hk : k < e.counter.val) :
    envTick^[k] e = { e with counter := ⟨e.counter.val - k, by omega⟩ } := by
  induction k with
  | zero => rfl
  | succ k ih =>
    rw [Function.iterate_succ_apply', ih (by omega)]
    exact envTick_count (e := { e with counter := ⟨e.counter.val - k, by omega⟩ }) h.period_ne_zero h.updating
      (show 2 ≤ e.counter.val - k by omega)

/-- The tick on which the counter expires is the volume step. -/
theorem envTick_iterate_counter {e : Envelope} (h : Running e) : envTick^[e.counter.val] e = envStep e := by
  obtain ⟨j, hj⟩ : ∃ j, e.counter.val = j + 1 := Nat.exists_eq_add_of_le' h.counter_pos
  rw [hj, Function.iterate_succ_apply', envTick_iterate_count h j (by omega)]
  exact envTick_step (e := { e with counter := ⟨e.counter.val - j, by omega⟩ }) h.period_ne_zero h.updating
    (show e.counter.val - j ≤ 1 by omega)

theorem envTick_iterate_still {e : Envelope} (h : e.updating = false ∨ e.period.val = 0) (k : Nat) :
    envTick^[k] e = e :=
  Function.iterate_fixed (envTick_still h) k

/-- A volume step that misses the rail leaves the envelope running. -/
theorem running_envStep {e : Envelope} (h : Running e) (hrail : onRail (stepVolume e.dir e.volume) = false) :
    Running (envStep e) where
  period_ne_zero := h.period_ne_zero
  updating := (envStep_updating h.updating).trans (congrArg not hrail)
  counter_pos := Nat.one_le_iff_ne_zero.mpr h.period_ne_zero

/-- R56, in both directions: the ticks make one volume step per expiry of the counter, and the envelope is frozen once a
step has been made and the rail reached. -/
theorem envTick_iterate (k : Nat) : ∀ {e : Envelope}, Running e →
    (envTick^[k] e).volume.val = volumeAfter e.dir e.volume.val (expiries e.counter.val e.period.val k) ∧
      ((envTick^[k] e).updating = false ↔ 1 ≤ expiries e.counter.val e.period.val k ∧
        volumeAfter e.dir e.volume.val (expiries e.counter.val e.period.val k) = railOf e.dir) := by
  induction k using Nat.strong_induction_on with
  | _ k ih =>
    intro e h
    rcases Nat.lt_or_ge k e.counter.val with hk | hk
    · rw [envTick_iterate_count h k hk, expiries_of_lt hk, volumeAfter_zero]
      simp [h.updating]
    have hsplit : envTick^[k] e = envTick^[k - e.counter.val] (envStep e) := by
      rw [← envTick_iterate_counter h, ← Function.iterate_add_apply, Nat.sub_add_cancel hk]
    rw [hsplit, expiries_of_le (Nat.pos_of_ne_zero h.period_ne_zero) hk, ← volumeAfter_stepVolume]
    by_cases hrail : onRail (stepVolume e.dir e.volume) = true
    · have hfrozen : (envStep e).updating = false := by rw [envStep_updating h.updating, hrail, Bool.not_true]
      have hvol : (stepVolume e.dir e.volume).val = railOf e.dir := (onRail_stepVolume_iff _ _).mp hrail
      rw [envTick_iterate_still (.inl hfrozen), hvol, volumeAfter_rail]
      exact ⟨hvol, by simp [hfrozen]⟩
    · have hmiss : onRail (stepVolume e.dir e.volume) = false := Bool.eq_false_of_not_eq_true hrail
      have hless : k - e.counter.val < k := Nat.sub_lt_self h.counter_pos hk
      obtain ⟨hvol, hfreeze⟩ := ih _ hless (running_envStep h hmiss)
      exact ⟨hvol, hfreeze.trans (reachesRail_after_miss hmiss _)⟩

/-- Settles O21: the closed form of repeated ticks, read in each direction. -/
theorem envelopeConvergesAndFreezes : Obligations.EnvelopeConvergesAndFreezes := by
  intro e k hp hu hc
  obtain ⟨hvol, hfreeze⟩ := envTick_iterate k ⟨hp, hu, hc⟩
  refine ⟨fun hdir => ?_, fun hdir => ?_⟩
  · simp only [hdir, volumeAfter, railOf] at hvol hfreeze
    exact ⟨hvol, hfreeze.trans (and_congr_right' Nat.sub_eq_zero_iff_le)⟩
  · simp only [hdir, volumeAfter, railOf] at hvol hfreeze
    exact ⟨hvol, hfreeze.trans (and_congr_right' min_eq_left_iff)⟩

/-! ## The commands of opcodes 3 and 8 (R53, R57) -/

/-- Every command's opcode is that of its row. -/
theorem opcodeOf_encode (i : Instr) : opcodeOf (encode i) = opcodeOf i.row.value :=
  opcodeOf_eq_of_selects (mem_opcodeMap_iff.mpr ⟨i, rfl⟩) (encode_and_mask i)

/-- R46: a word of a row's opcode is a command of that row or a reserved encoding, because no two rows share an
opcode. -/
theorem ownOrReserved_of_row (i : Instr) {own : Instr → Prop} (hown : ∀ j : Instr, j.row = i.row → own j) :
    OwnOrReserved (opcodeOf i.row.value) own := by
  intro w hop
  cases hd : decode w with
  | command j =>
    have hopj : opcodeOf j.row.value = opcodeOf i.row.value := by rw [← opcodeOf_encode, encode_of_decode hd, hop]
    have hrow : j.row = i.row :=
      opcodeMap_opcode_injective _ (mem_opcodeMap_iff.mpr ⟨j, rfl⟩) _ (mem_opcodeMap_iff.mpr ⟨i, rfl⟩) hopj
    exact .inl ⟨j, hown j hrow, rfl⟩
  | reserved => exact .inr fun _ hf => runWord_of_reserved_clear hd hf

theorem ownOrReserved_setenv : OwnOrReserved 3 (fun i => ∃ iv dir per, i = .setenv iv dir per) := by
  refine ownOrReserved_of_row (.setenv 0 .decrease 0) fun j hj => ?_
  cases j with
  | setenv iv dir per => exact ⟨iv, dir, per, rfl⟩
  | _ => simp [Instr.row] at hj

theorem ownOrReserved_rdvol : OwnOrReserved 8 (fun i => i = .rdvol) := by
  refine ownOrReserved_of_row .rdvol fun j hj => ?_
  cases j with
  | rdvol => rfl
  | _ => simp [Instr.row] at hj

/-- The direction's bit as the statement of SETENV writes it. -/
theorem setWidth_bitOfDirection_eq_ite (dir : Direction) :
    (bitOfDirection dir).setWidth 32 = if dir = .increase then 1#32 else 0#32 := by
  cases dir <;> rfl

/-- Settles O11: the word field by field, and the effect of SETENV as `commandEffect` has it. -/
theorem setenvWritesTheConfiguration : Obligations.SetenvWritesTheConfiguration := by
  refine fun iv dir per s => ⟨?_, ownOrReserved_setenv, fun hf => ?_, fun c hf => exec_latched hf _⟩
  · rw [encode_setenv_eq_or, setWidth_bitOfDirection_eq_ite]
  · exact ⟨_, exec_clear hf _, rfl, rfl, rfl, rfl⟩

/-- Settles O14: RDVOL answers the live volume and has no other effect. -/
theorem rdvolReturnsTheVolume : Obligations.RdvolReturnsTheVolume := fun _ =>
  ⟨rfl, ownOrReserved_rdvol, fun hf => exec_clear hf _, fun _ hf => exec_latched hf _⟩

end Sys2Proof.Machine

/-! The statements of 42_square_channel.md: the duty rows (O24), the channel's advance in closed form (O26), eight
periods (O28), the period function (O23), the crossing (O25), and the commands SETFREQ (O9), SETDUTY (O10), TRIG (O12)
and RDSAMPLE (O13). -/

namespace Sys2Proof.Machine

/-! ## The duty rows (R60) -/

/-- The phases at which a row is high are as many as its ones. -/
theorem length_filter_getElem_eq_count {n : Nat} (row : Vector Bool n) :
    ((List.finRange n).filter fun p => row[p]).length = row.toList.count true := by
  have hrow : row.toList = (List.finRange n).map fun p => row[p] := by
    rw [← List.ofFn_eq_map]
    exact List.ext_getElem (by simp) (by simp)
  rw [hrow, List.count, List.countP_map, List.countP_eq_length_filter]
  congr 2
  funext p
  simp

/-- R6: row `d` of a well-formed table has 1, 2, 4 or 6 ones. -/
theorem count_dutyRow_of_wf {c : Config} (h : c.wf = true) (d : Fin 4) :
    (c.dutyTable[d]).toList.count true = [1, 2, 4, 6][d] := by
  obtain ⟨-, -, -, hones⟩ := c.wf_iff.mp h
  have hd : (Config.onesPerRow c.dutyTable)[d.val]? = some ((c.dutyTable[d]).toList.count true) := by
    simp [Config.onesPerRow]
  rw [hones] at hd
  simpa using hd.symm

theorem amplitude_val (c : Config) (d : Fin 4) (p : Fin 8) (v : Fin 16) :
    (amplitude c d p v).val = (dutyBit c d p).toNat * v.val := by
  rw [amplitude]
  cases dutyBit c d p <;> simp

/-- Settles O24: the phases a row is high for are counted by its ones, which a well-formed table fixes. -/
theorem dutyRowsAreHighOneTwoFourSix : Obligations.DutyRowsAreHighOneTwoFourSix := by
  refine ⟨fun c d p v => ⟨rfl, amplitude_val c d p v⟩, fun c d hwf => ?_⟩
  exact (length_filter_getElem_eq_count _).trans (count_dutyRow_of_wf hwf d)

/-! ## The advance in closed form (R64, R65)

The counter and the phase follow by induction from one crossing to the next. The sample needs no count: once a channel
has crossed, its sample is the amplitude at its phase, and an advance keeps that so. -/

theorem remaining_of_lt {c p n : Nat} (h : n < c) : remaining c p n = c - n := if_pos h

/-- After the first expiry the down-counter stands where one started from the reload value would. -/
theorem remaining_of_le {c p n : Nat} (h : c ≤ n) : remaining c p n = remaining p p (n - c) := by
  rw [remaining, if_neg h.not_gt, remaining]
  split
  case isTrue hlt => rw [Nat.mod_eq_of_lt hlt]
  case isFalse hge => rw [Nat.mod_eq_sub_mod (not_lt.mp hge)]

theorem fin8_add_one_val (p : Fin 8) : (p + 1).val = (p.val + 1) % 8 := Fin.val_add p 1

/-- Where the counter and the phase stand after `n` cycles. -/
theorem chAdvance_counter_phase (c : Config) (v : Fin 16) (n : Nat) : ∀ {ch : Channel}, 0 < ch.period →
    0 < ch.counter →
    (chAdvance c v n ch).counter = remaining ch.counter ch.period n ∧
      (chAdvance c v n ch).phase.val = (ch.phase.val + expiries ch.counter ch.period n) % 8 := by
  induction n using Nat.strong_induction_on with
  | _ n ih =>
    intro ch hP hc
    rcases Nat.lt_or_ge n ch.counter with hn | hn
    · rw [chAdvance_count c v hn, remaining_of_lt hn, expiries_of_lt hn]
      exact ⟨rfl, (Nat.mod_eq_of_lt ch.phase.isLt).symm⟩
    · have hless : n - ch.counter < n := Nat.sub_lt_self hc hn
      obtain ⟨hcounter, hphase⟩ := ih _ hless (ch := crossing c v ch) hP hP
      rw [chAdvance_cross_pos c v hP hc hn, remaining_of_le hn, expiries_of_le hP hn]
      refine ⟨hcounter, hphase.trans ?_⟩
      rw [crossing_counter, crossing_period, crossing_phase, fin8_add_one_val, Nat.mod_add_mod, Nat.add_assoc]

/-- The sample is what the duty table and the volume give at the channel's phase. -/
def SampledAt (c : Config) (v : Fin 16) (ch : Channel) : Prop := ch.sample = amplitude c ch.duty ch.phase v

theorem sampledAt_crossing (c : Config) (v : Fin 16) (ch : Channel) : SampledAt c v (crossing c v ch) := rfl

theorem SampledAt.chSubStep {c : Config} {v : Fin 16} {ch : Channel} (h : SampledAt c v ch) (n : Nat) :
    SampledAt c v (chSubStep c v n ch) := by
  unfold Machine.chSubStep
  dsimp only
  split
  · exact sampledAt_crossing c v _
  · exact h

/-- At one volume, an advance keeps the sample that of the channel's phase. -/
theorem SampledAt.chLoop {c : Config} {v : Fin 16} (fuel : Nat) : ∀ (rem : Nat) {ch : Channel}, SampledAt c v ch →
    SampledAt c v (chLoop c v fuel rem ch) := by
  induction fuel with
  | zero => exact fun _ _ h => h
  | succ fuel ih =>
    intro rem ch h
    rw [Machine.chLoop]
    split
    · exact h
    · exact ih _ (h.chSubStep _)

/-- An advance that crosses leaves the sample of its last crossing. -/
theorem chAdvance_sample_of_le (c : Config) (v : Fin 16) {n : Nat} {ch : Channel} (hn0 : 0 < n)
    (hn : ch.counter ≤ n) :
    (chAdvance c v n ch).sample = amplitude c ch.duty (chAdvance c v n ch).phase v := by
  have hsampled : SampledAt c v (chAdvance c v n ch) := by
    rw [chAdvance_cross c v hn0 hn]
    exact (sampledAt_crossing c v ch).chLoop n _
  rwa [SampledAt, chAdvance_duty] at hsampled

theorem expiries_eq_zero_iff {c p n : Nat} : expiries c p n = 0 ↔ n < c := by
  simp [expiries]

/-- Settles O26: the counter and the phase by induction over the crossings, the sample from the last of them. -/
theorem channelAdvanceClosedForm : Obligations.ChannelAdvanceClosedForm := by
  intro c v n ch hc hP
  obtain ⟨hcounter, hphase⟩ := chAdvance_counter_phase c v n hP hc
  refine ⟨hcounter, hphase, ?_, chAdvance_period c v n ch, chAdvance_duty c v n ch⟩
  split
  case isTrue hk => rw [chAdvance_count c v (expiries_eq_zero_iff.mp hk)]
  case isFalse hk =>
    have hn : ch.counter ≤ n := not_lt.mp (mt expiries_eq_zero_iff.mpr hk)
    exact chAdvance_sample_of_le c v (lt_of_lt_of_le hc hn) hn

/-! ## Eight periods (R64)

Crossings do not depend on the volume, so the controller's boundaries, which only change the volume, leave the channel's
counter and phase to the channel's own advance. -/

theorem SameTiming.refl (ch : Channel) : SameTiming ch ch := ⟨rfl, rfl, rfl⟩

theorem SameTiming.trans {ch ch' ch'' : Channel} (h : SameTiming ch ch') (h' : SameTiming ch' ch'') :
    SameTiming ch ch'' :=
  ⟨h'.period.trans h.period, h'.counter.trans h.counter, h'.phase.trans h.phase⟩

/-- Under the controller the channel keeps the time it keeps alone, at any volume and duty table. -/
theorem sameTiming_ctlAdvance (c : Config) (v : Fin 16) (n : Nat) : ∀ {s : State}, Advanceable s →
    SameTiming (chAdvance c v n s.ch) (ctlAdvance n s).ch := by
  induction n using Nat.strong_induction_on with
  | _ n ih =>
    intro s h
    rcases Nat.lt_or_ge n s.fs.counter with hn | hn
    · rw [ctlAdvance_inside hn]
      exact (SameTiming.refl s.ch).chAdvance c s.cfg v s.env.volume n
    · have hless : n - s.fs.counter < n := Nat.sub_lt_self h.fs_counter_pos hn
      have hrest := ih _ hless (advanceable_subStep h s.fs.counter)
      have hfirst := (SameTiming.refl s.ch).chAdvance c s.cfg v s.env.volume s.fs.counter
      have hsplit : chAdvance c v (n - s.fs.counter) (chAdvance c v s.fs.counter s.ch) = chAdvance c v n s.ch := by
        rw [chAdvance_add c v _ _ h.period_pos, Nat.add_sub_cancel' hn]
      rw [subStep_ch] at hrest
      rw [ctlAdvance_boundary h hn, ← hsplit]
      exact (hfirst.chAdvance c c v v _).trans hrest

/-- After the first expiry of a down-counter at `c`, `k + 1` periods leave `k` whole periods and `p - c`. -/
theorem periods_sub_counter {k c p : Nat} (hc : 1 ≤ c) (hcp : c ≤ p) :
    ((k + 1) * p - c) / p = k ∧ ((k + 1) * p - c) % p = p - c := by
  have hsplit : (k + 1) * p - c = (p - c) + k * p := by
    rw [Nat.succ_mul]
    omega
  have hlt : p - c < p := by omega
  rw [hsplit, Nat.add_mul_div_right _ _ (by omega), Nat.add_mul_mod_self_right, Nat.div_eq_of_lt hlt,
    Nat.mod_eq_of_lt hlt, Nat.zero_add]
  exact ⟨rfl, rfl⟩

/-- Settles O28: in eight periods the counter expires eight times and comes back, and the phase comes round. -/
theorem eightPeriodsRestoreThePhase : Obligations.EightPeriodsRestoreThePhase := by
  intro s hinv hc hcP
  have hP : 0 < s.ch.period := hc.trans hcP
  have htiming := sameTiming_ctlAdvance s.cfg s.env.volume (8 * s.ch.period) (hinv.advanceable hP)
  obtain ⟨hcounter, hphase⟩ := chAdvance_counter_phase s.cfg s.env.volume (8 * s.ch.period) hP hc
  obtain ⟨hdiv, hmod⟩ := periods_sub_counter (k := 7) hc hcP
  have hreach : ¬ 8 * s.ch.period < s.ch.counter := by omega
  constructor
  · rw [htiming.counter, hcounter, remaining, if_neg hreach, hmod, Nat.sub_sub_self hcP]
  · apply Fin.ext
    rw [htiming.phase, hphase, expiries, if_neg hreach, hdiv, Nat.add_mod_right, Nat.mod_eq_of_lt s.ch.phase.isLt]

/-! ## The period function (R59) -/

/-- Settles O23: the formula, with f below 2048 by its width. -/
theorem periodFunctionRangeAndOrder : Obligations.PeriodFunctionRangeAndOrder := by
  refine ⟨fun f hf => ?_, fun f g hfg => ?_, rfl, rfl, rfl, rfl, rfl⟩
  · refine ⟨rfl, ?_⟩
    rw [periodOf]
    bv_omega
  · have hlt := g.isLt
    rw [periodOf, periodOf]
    omega

/-! ## The crossing (R65) -/

/-- Settles O25, field by field of the crossing. -/
theorem crossingFollowsTheRule : Obligations.CrossingFollowsTheRule := fun c v ch =>
  ⟨rfl, fin8_add_one_val ch.phase, amplitude_val c ch.duty (ch.phase + 1) v, rfl, rfl⟩

/-! ## The commands of opcodes 1, 2, 4 and 7 (R61, R62, R63, R66) -/

theorem ownOrReserved_setfreq : OwnOrReserved 1 (fun i => ∃ f, i = .setfreq f) := by
  refine ownOrReserved_of_row (.setfreq 0) fun j hj => ?_
  cases j with
  | setfreq f => exact ⟨f, rfl⟩
  | _ => simp [Instr.row] at hj

theorem ownOrReserved_setduty : OwnOrReserved 2 (fun i => ∃ d, i = .setduty d) := by
  refine ownOrReserved_of_row (.setduty 0) fun j hj => ?_
  cases j with
  | setduty d => exact ⟨d, rfl⟩
  | _ => simp [Instr.row] at hj

theorem ownOrReserved_trig : OwnOrReserved 4 (fun i => i = .trig) := by
  refine ownOrReserved_of_row .trig fun j hj => ?_
  cases j with
  | trig => rfl
  | _ => simp [Instr.row] at hj

theorem ownOrReserved_rdsample : OwnOrReserved 7 (fun i => i = .rdsample) := by
  refine ownOrReserved_of_row .rdsample fun j hj => ?_
  cases j with
  | rdsample => rfl
  | _ => simp [Instr.row] at hj

/-- Settles O9: the word, and the effect of SETFREQ in its two cases. -/
theorem setfreqWritesThePeriod : Obligations.SetfreqWritesThePeriod := by
  refine fun f s => ⟨encode_setfreq_eq_or f, ownOrReserved_setfreq, fun hf (hne : ¬ f = 0#11) => ?_,
    fun hf (h0 : f = 0#11) => ?_, fun c hf => exec_latched hf _⟩
  · rw [exec_clear hf, commandEffect, if_neg hne]
    rfl
  · rw [exec_clear hf, commandEffect, if_pos h0, State.raise_eq]

/-- Settles O10: the word, and the effect of SETDUTY as `commandEffect` has it. -/
theorem setdutyWritesTheDutyIndex : Obligations.SetdutyWritesTheDutyIndex := by
  refine fun d s => ⟨encode_setduty_eq_or d, ownOrReserved_setduty, fun hf => ?_, fun c hf => exec_latched hf _⟩
  exact ⟨_, exec_clear hf _, rfl, rfl⟩

/-- Settles O12: envelope initialisation and the reloaded counter. -/
theorem trigRestartsEnvelopeAndPeriod : Obligations.TrigRestartsEnvelopeAndPeriod := by
  refine fun s => ⟨rfl, ownOrReserved_trig, fun hf => ?_, fun c hf => exec_latched hf _⟩
  exact ⟨_, exec_clear hf _, rfl, envInit_counter_val s.env, rfl⟩

/-- Settles O13: RDSAMPLE answers the sample and has no other effect. -/
theorem rdsampleReturnsTheSample : Obligations.RdsampleReturnsTheSample := fun _ =>
  ⟨rfl, ownOrReserved_rdsample, fun hf => exec_clear hf _, fun _ hf => exec_latched hf _⟩

end Sys2Proof.Machine

/-! The statements of 43_scheduler.md: the advance's frame (O18), its loop (O30), the boundary (O31), a crossing and a
tick on one cycle (O32), the clock cycle by cycle (O33), cycle additivity (O34), the frame sequencer in closed form (O35),
eight boundaries (O36), and UPDATE (O15, O16). -/

namespace Sys2Proof.Machine

/-! ## The advance, sub-step by sub-step (R68, R69) -/

/-- R68: the loop's first sub-step, and the advance by what is left. -/
theorem Inv.ctlAdvance_eq {n : Nat} {s : State} (h : Inv s) (hn : 0 < n) :
    Machine.ctlAdvance n s =
      Machine.ctlAdvance (n - min n s.fs.counter) (Machine.subStep (min n s.fs.counter) s) := by
  have hpos := h.fs_counter_pos
  have h' := h.subStep (min n s.fs.counter)
  rw [Machine.ctlAdvance, ctlLoop_succ hn]
  exact ctlLoop_fuel (Config.wf.fsDiv_pos h'.cfg_wf) h'.fs_counter_pos (by omega) (by omega)

/-- An advance that goes no further than the next boundary is one sub-step. -/
theorem ctlAdvance_eq_subStep {n : Nat} {s : State} (hn : 0 < n) (h : n ≤ s.fs.counter) :
    ctlAdvance n s = subStep n s := by
  rw [ctlAdvance, ctlLoop_succ hn, Nat.min_eq_left h, Nat.sub_self, ctlLoop_zero_rem]

/-- Settles O18: every field the frame names is one of those an advance leaves alone. -/
theorem advanceFrame : Obligations.AdvanceFrame := by
  intro n s
  obtain ⟨hacc, hfault, hinbox, hresp, hframes, htime, hfresh⟩ := ctlAdvance_rest n s
  obtain ⟨hP, hduty, hinit, hdir, hper⟩ := ctlAdvance_settings n s
  simp only [← ctlAdvance_cfg n s, ← hacc, ← hfault, ← hinbox, ← hresp, ← hframes, ← htime, ← hfresh, ← hP, ← hduty,
    ← hinit, ← hdir, ← hper]

/-- Settles O30: the first turn of the loop is a sub-step, which consumes a cycle because the counter is positive. -/
theorem controllerLoopTakesOneSubStep : Obligations.ControllerLoopTakesOneSubStep :=
  ⟨ctlAdvance_zero, fun _ _ h hn => ⟨Nat.le_min.mpr ⟨hn, h.fs_counter_pos⟩, h.ctlAdvance_eq hn⟩⟩

theorem dispatchedIndex_eq_seven_iff (s : State) :
    dispatchedIndex s = 7 ↔ (if s.cfg.fsEventAfterAdvance then (s.fs.step.val + 1) % 8 else s.fs.step.val) = 7 := by
  rw [Fin.ext_iff, dispatchedIndex, apply_ite Fin.val, fin8_add_one_val]
  rfl

/-- R69, R70: a sub-step ticks the envelope where it reaches the boundary and the index dispatched there is 7. -/
theorem subStep_env_eq_tick (n : Nat) (s : State) :
    (subStep n s).env =
      if s.fs.counter ≤ n ∧ (if s.cfg.fsEventAfterAdvance then (s.fs.step.val + 1) % 8 else s.fs.step.val) = 7
        then envTick s.env else s.env := by
  simp only [subStep_env, ← dispatchedIndex_eq_seven_iff, ← not_le, ← not_and_or, ne_eq, ite_not]

/-- Settles O31: the boundary field by field, and the two kinds of sub-step. -/
theorem boundaryReloadsAndDispatches : Obligations.BoundaryReloadsAndDispatches := by
  refine ⟨fun s => ?_, fun s => ⟨subStep_boundary le_rfl, ?_⟩, fun n s h => ?_⟩
  · rw [fsBoundary_eq]
    exact ⟨rfl, fin8_add_one_val _, if_congr Fin.ext_iff rfl rfl, rfl⟩
  · rw [subStep_fs, if_neg (lt_irrefl _)]
  · rw [subStep_inside h]
    exact ⟨rfl, rfl, rfl⟩

/-! ## The order on one master cycle (R71, R102) -/

theorem chAdvance_counter (c : Config) (v : Fin 16) {ch : Channel} (h : 0 < ch.counter) :
    chAdvance c v ch.counter ch = crossing c v ch := by
  rw [chAdvance_cross c v h le_rfl, Nat.sub_self, chLoop_zero_rem]

/-- Settles O32: the crossing and the boundary lie in one sub-step, whose channel part reads the volume it starts from. -/
theorem crossingSeesTheVolumeBeforeTheTick : Obligations.CrossingSeesTheVolumeBeforeTheTick := by
  intro s _ hc hle
  rw [ctlAdvance_eq_subStep hc hle]
  refine ⟨(subStep_ch _ s).trans (chAdvance_counter _ _ hc), ?_⟩
  simp only [subStep_env_eq_tick, hle.ge_iff_eq]

/-! ## The clock, cycle by cycle (R72) -/

theorem channelCycle_eq (c : Config) (v : Fin 16) (ch : Channel) :
    channelCycle c v ch = chSubStep c v 1 (if ch.counter = 0 then crossing c v ch else ch) := rfl

theorem chAdvance_one (c : Config) (v : Fin 16) {ch : Channel} (hc : 0 < ch.counter) :
    chAdvance c v 1 ch = chSubStep c v 1 ch := by
  rw [chAdvance, chLoop, if_neg one_ne_zero, Nat.min_eq_left hc, Nat.sub_self, chLoop_zero_rem]

/-- R64, R97: one cycle of the channel is its advance by 1. -/
theorem channelCycle_eq_chAdvance (c : Config) (v : Fin 16) {ch : Channel} (hP : 0 < ch.period) :
    channelCycle c v ch = chAdvance c v 1 ch := by
  rw [channelCycle_eq]
  rcases Nat.eq_zero_or_pos ch.counter with hc | hc
  · rw [if_pos hc, chAdvance_of_counter_zero c v hP one_pos hc, chAdvance_one c v hP]
  · rw [if_neg hc.ne', chAdvance_one c v hc]

/-- R71: one cycle of the block is the controller's advance by 1. -/
theorem masterCycle_eq_ctlAdvance {s : State} (h : Advanceable s) : masterCycle s = ctlAdvance 1 s := by
  rw [ctlAdvance_eq_subStep one_pos h.fs_counter_pos, masterCycle, channelCycle_eq_chAdvance _ _ h.period_pos]
  rfl

theorem ctlAdvance_eq_iterate_masterCycle {s : State} (h : Advanceable s) (n : Nat) :
    ctlAdvance n s = masterCycle^[n] s := by
  induction n with
  | zero => exact ctlAdvance_zero s
  | succ n ih =>
    rw [Function.iterate_succ_apply', ← ih, masterCycle_eq_ctlAdvance (advanceable_ctlAdvance h n), ctlAdvance_add h]

/-- Settles O33: one cycle is an advance by 1, and advances add up. -/
theorem advanceIsTheClockCycleByCycle : Obligations.AdvanceIsTheClockCycleByCycle :=
  fun n _ hinv hP => ctlAdvance_eq_iterate_masterCycle (hinv.advanceable hP) n

/-! ## The frame sequencer in closed form (R69, R70) -/

/-- The first of `1 + b` boundaries ticks where the index it dispatches is 7; the others follow the next step index. -/
theorem ticksAmong_one_add (afterAdvance : Bool) {k : Nat} (hk : k < 8) (b : Nat) :
    ticksAmong afterAdvance k (1 + b) =
      ticksAmong afterAdvance ((k + 1) % 8) b + if (if afterAdvance then (k + 1) % 8 else k) = 7 then 1 else 0 := by
  cases afterAdvance with
  | true =>
    simp only [ticksAmong, if_true]
    split <;> omega
  | false =>
    simp only [ticksAmong, Bool.false_eq_true, if_false]
    split <;> omega

theorem ticksAmong_zero (afterAdvance : Bool) (k : Nat) : ticksAmong afterAdvance k 0 = 0 := by
  cases afterAdvance <;> exact Nat.sub_self _

theorem ticksAmong_eight (afterAdvance : Bool) (k : Nat) : ticksAmong afterAdvance k 8 = 1 := by
  cases afterAdvance with
  | true =>
    simp only [ticksAmong, if_true]
    omega
  | false =>
    simp only [ticksAmong, Bool.false_eq_true, if_false]
    omega

/-- The sub-step up to the boundary ticks the envelope once or not at all. -/
theorem subStep_counter_env (s : State) :
    (subStep s.fs.counter s).env = envTick^[if (if s.cfg.fsEventAfterAdvance then (s.fs.step.val + 1) % 8
      else s.fs.step.val) = 7 then 1 else 0] s.env := by
  simp only [subStep_env_eq_tick, le_refl, true_and]
  exact (apply_ite (envTick^[·] s.env) _ 1 0).symm

/-- Settles O35, by induction from one boundary to the next. -/
theorem frameSequencerClosedForm : Obligations.FrameSequencerClosedForm := by
  intro n
  induction n using Nat.strong_induction_on with
  | _ n ih =>
    intro s h
    dsimp only
    rcases Nat.lt_or_ge n s.fs.counter with hn | hn
    · rw [ctlAdvance_inside hn, remaining_of_lt hn, expiries_of_lt hn, ticksAmong_zero]
      exact ⟨rfl, (Nat.mod_eq_of_lt s.fs.step.isLt).symm, rfl⟩
    · have hpos := h.fs_counter_pos
      have hD := Config.wf.fsDiv_pos h.cfg_wf
      have hfs : (subStep s.fs.counter s).fs = ⟨s.cfg.fsDiv, s.fs.step + 1⟩ := by
        rw [subStep_fs, if_neg (lt_irrefl _)]
      obtain ⟨hcounter, hstep, henv⟩ := ih (n - s.fs.counter) (by omega) _ (h.subStep s.fs.counter)
      rw [subStep_cfg, hfs] at hcounter hstep henv
      rw [fin8_add_one_val] at hstep henv
      rw [subStep_counter_env, ← Function.iterate_add_apply, ← ticksAmong_one_add _ s.fs.step.isLt] at henv
      rw [h.ctlAdvance_eq (by omega), Nat.min_eq_right hn, remaining_of_le hn, expiries_of_le hD hn]
      refine ⟨hcounter, hstep.trans ?_, henv⟩
      rw [Nat.mod_add_mod, Nat.add_assoc]

/-- Settles O36: in eight divider periods the counter expires eight times and comes back, and one of eight indices in a
row is 7. -/
theorem eightBoundariesTickTheEnvelopeOnce : Obligations.EightBoundariesTickTheEnvelopeOnce := by
  intro s h
  obtain ⟨hcounter, hstep, henv⟩ := frameSequencerClosedForm (8 * s.cfg.fsDiv) s h
  obtain ⟨hdiv, hmod⟩ := periods_sub_counter (k := 7) h.fs_counter_pos h.fs_counter_le
  have hD := Config.wf.fsDiv_pos h.cfg_wf
  have hle := h.fs_counter_le
  have hreach : ¬ 8 * s.cfg.fsDiv < s.fs.counter := by omega
  have hexp : expiries s.fs.counter s.cfg.fsDiv (8 * s.cfg.fsDiv) = 8 := by rw [expiries, if_neg hreach, hdiv]
  rw [remaining, if_neg hreach, hmod, Nat.sub_sub_self hle] at hcounter
  rw [hexp, Nat.add_mod_right, Nat.mod_eq_of_lt s.fs.step.isLt] at hstep
  rw [hexp, ticksAmong_eight] at henv
  exact ⟨henv, congrArg₂ FrameSequencer.mk hcounter (Fin.ext hstep)⟩

/-! ## UPDATE (R67, R73, R74) -/

theorem consume_zero (s : State) : consume 0 s = s := by
  rw [consume, ctlAdvance_zero]
  rfl

theorem cycleCount_pos_iff {n : BitVec 28} : 0 < cycleCount n ↔ n ≠ 0 := by
  rw [cycleCount]
  bv_omega

/-- R67: UPDATE completes where it consumes no cycle or a frequency is written. -/
theorem exec_update_completes {n : BitVec 28} {s : State} (hf : s.fault = none) (h : n = 0 ∨ 0 < s.ch.period) :
    exec (.update n) s = .next ((consume n.toNat s).respond .ack) := by
  rcases h with rfl | hP
  · exact exec_clear hf _
  · exact exec_update_of_period_pos hf hP n

/-- R67: UPDATE raises code 3 where it would consume cycles with no frequency written. -/
theorem exec_update_raises {n : BitVec 28} {s : State} (hf : s.fault = none) (hn : n ≠ 0) (hP : s.ch.period = 0) :
    exec (.update n) s = .next (s.raise .channelUnconfigured) := by
  rw [exec_clear hf, commandEffect, if_pos ((unconfigured_iff _ s).mpr ⟨cycleCount_pos_iff.mpr hn, hP⟩)]

theorem exec_update_zero {s : State} (hf : s.fault = none) : exec (.update 0) s = .next (s.respond .ack) := by
  rw [exec_update_completes hf (.inl rfl), show (0 : BitVec 28).toNat = 0 from rfl, consume_zero]

/-- R67: opcode 5 reserves no word. -/
theorem decode_of_opcode_five {w : Word} (h : opcodeOf w = 5) : decode w = .command (.update (w.extractLsb' 0 28)) := by
  simp [decode, h]

/-- Settles O15: the word, and the effect of UPDATE in its two cases. -/
theorem updateRunsTheController : Obligations.UpdateRunsTheController := by
  refine fun n s => ⟨encode_update_eq_or n, fun w hw => ⟨_, decode_of_opcode_five hw⟩, fun hf h => ?_,
    fun hf hn hP => exec_update_raises hf hn hP, fun c hf => exec_latched hf _⟩
  obtain ⟨-, -, -, hresp, -, htime, -⟩ := ctlAdvance_rest n.toNat s
  rw [exec_update_completes hf h, ← hresp, ← htime]
  rfl

/-- Settles O16: UPDATE 0 passes the check on the period, and both loops end at once. -/
theorem updateZeroChangesNothing : Obligations.UpdateZeroChangesNothing :=
  ⟨fun _ hf => exec_update_zero hf, ctlAdvance_zero, chAdvance_zero⟩

/-- R73 with a frequency written: neither run faults. -/
theorem updates_add_of_period_pos {s : State} (hf : s.fault = none) (h : Advanceable s) {a b : BitVec 28}
    (hab : (a + b).toNat = a.toNat + b.toNat) :
    ∃ t u, execAll [.update a, .update b] s = .next t ∧ exec (.update (a + b)) s = .next u ∧ SameBlock t u ∧
      t.fault = none := by
  obtain ⟨t, ht, hblock, -⟩ := execAll_updates [a, b] hf h
  have hu : SameBlock t (consume (a + b).toNat s) := by simpa [hab] using hblock
  obtain ⟨-, -, -, -, -, hfault, -⟩ := hblock
  exact ⟨t, _, ht, exec_update_of_period_pos hf h.period_pos (a + b), hu, by rw [hfault, consume_fault, hf]⟩

/-- R73 with no frequency written: the first UPDATE with cycles to consume faults, and so does the sum. -/
theorem updates_add_of_period_zero {s : State} (hf : s.fault = none) (hP : s.ch.period = 0) {a b : BitVec 28}
    (hab : (a + b).toNat = a.toNat + b.toNat) :
    ∃ t u, execAll [.update a, .update b] s = .next t ∧ exec (.update (a + b)) s = .next u ∧ SameBlock t u ∧
      t.fault = if 0 < a.toNat + b.toNat then some .channelUnconfigured else none := by
  by_cases ha : a = 0
  · subst ha
    rw [zero_add, execAll_cons_next (exec_update_zero hf)]
    by_cases hb : b = 0
    · subst hb
      exact ⟨_, _, execAll_cons_next (exec_update_zero (s := s.respond .ack) hf) _, exec_update_zero hf, .refl s, hf⟩
    · have hpos : 0 < (0 : BitVec 28).toNat + b.toNat := by bv_omega
      rw [if_pos hpos]
      exact ⟨_, _, execAll_cons_next (exec_update_raises (s := s.respond .ack) hf hb hP) _,
        exec_update_raises hf hb hP, .refl (s.raise _), rfl⟩
  · have hpos : 0 < a.toNat + b.toNat := by bv_omega
    have hsum : a + b ≠ 0 := by bv_omega
    rw [if_pos hpos, execAll_cons_next (exec_update_raises hf ha hP)]
    exact ⟨_, _, execAll_cons_next (exec_latched rfl _) _, exec_update_raises hf hsum hP, sameBlock_respond _ _, rfl⟩

/-- Settles O34: with a frequency written the advances add up; with none, the first UPDATE that would consume a cycle
faults. -/
theorem cyclesAreAdditive : Obligations.CyclesAreAdditive := by
  refine ⟨fun a b s hinv h => ?_, fun a b s hinv hf hlt => ?_⟩
  · rcases h with h0 | hP
    · obtain ⟨rfl, rfl⟩ := Nat.add_eq_zero_iff.mp h0
      rw [ctlAdvance_zero, ctlAdvance_zero]
    · exact ctlAdvance_add (hinv.advanceable hP) a b
  · have hab : (a + b).toNat = a.toNat + b.toNat := BitVec.toNat_add_of_lt hlt
    rcases Nat.eq_zero_or_pos s.ch.period with hP | hP
    · obtain ⟨t, u, ht, hu, hblock, hfault⟩ := updates_add_of_period_zero hf hP hab
      refine ⟨t, u, ht, hu, hblock, ?_⟩
      rw [hfault]
      split
      case isTrue hpos => exact ⟨iff_of_true nofun ⟨hpos, hP⟩, fun _ => rfl⟩
      case isFalse hzero => exact ⟨iff_of_false (absurd rfl) fun h => hzero h.1, fun h => absurd rfl h⟩
    · obtain ⟨t, u, ht, hu, hblock, hfault⟩ := updates_add_of_period_pos hf (hinv.advanceable hP) hab
      exact ⟨t, u, ht, hu, hblock, by simp [hfault, hP.ne'], by simp [hfault]⟩

end Sys2Proof.Machine

/-! The statements of 44_sample_rate.md: SAMPLE (O17), the drift of any number of SAMPLE commands (O41), and the frames
they emit (O42). -/

namespace Sys2Proof.Machine

/-! ## SAMPLE (R75, R76, R77) -/

/-- R75: the state a SAMPLE that completes answers; its frame holds the sample after the advance. -/
def sampled (s : State) : State :=
  (((consume (wholeCycles s) s).withAcc (accResidue s)).emit (outputFrame (ctlAdvance (wholeCycles s) s))).respond .ack

@[simp] theorem sampled_cfg (s : State) : (sampled s).cfg = s.cfg := by simp [sampled]
@[simp] theorem sampled_acc (s : State) : (sampled s).acc = accResidue s := rfl
@[simp] theorem sampled_time (s : State) : (sampled s).time = s.time + wholeCycles s := by simp [sampled]
@[simp] theorem sampled_frames (s : State) :
    (sampled s).frames = s.frames ++ [outputFrame (ctlAdvance (wholeCycles s) s)] := by simp [sampled]

/-- R75: SAMPLE completes where it consumes no cycle or a frequency is written. -/
theorem exec_sample_completes {s : State} (hf : s.fault = none) (h : wholeCycles s = 0 ∨ 0 < s.ch.period) :
    exec .sample s = .next (sampled s) := by
  have hconf : ¬ unconfigured (wholeCycles s) s = true := by
    rw [unconfigured_iff]
    omega
  rw [exec_clear hf, commandEffect, if_neg hconf]
  rfl

/-- R75: SAMPLE raises code 3 where it would consume cycles with no frequency written. -/
theorem exec_sample_raises {s : State} (hf : s.fault = none) (hw : wholeCycles s ≠ 0) (hP : s.ch.period = 0) :
    exec .sample s = .next (s.raise .channelUnconfigured) := by
  rw [exec_clear hf, commandEffect, if_pos ((unconfigured_iff _ s).mpr ⟨Nat.pos_of_ne_zero hw, hP⟩)]

theorem ownOrReserved_sample : OwnOrReserved 6 (fun i => i = .sample) := by
  refine ownOrReserved_of_row .sample fun j hj => ?_
  cases j with
  | sample => rfl
  | _ => simp [Instr.row] at hj

/-- Settles O17: the word, and the effect of SAMPLE in its two cases. -/
theorem sampleAdvancesAndEmits : Obligations.SampleAdvancesAndEmits := by
  refine fun s => ⟨rfl, ownOrReserved_sample, fun hf h => ?_, fun hf hw hP => exec_sample_raises hf hw hP,
    fun c hf => exec_latched hf _⟩
  obtain ⟨-, -, -, hresp, hframes, htime, -⟩ := ctlAdvance_rest (wholeCycles s) s
  rw [exec_sample_completes hf h, ← hresp, ← hframes, ← htime]
  rfl

/-! ## Runs without a fault (R34, R84) -/

/-- A command that answers a state with no fault ran on one. -/
theorem exec_fault_none {i : Instr} {s t : State} (h : exec i s = .next t) (ht : t.fault = none) : s.fault = none := by
  rcases exec_cases h with ⟨hf, -⟩ | ⟨c, hf, rfl⟩
  · exact hf
  · exact ht

/-- A command that answers a state with no fault raised none. -/
theorem exec_ne_raise {i : Instr} {s t : State} (h : exec i s = .next t) (ht : t.fault = none) (c : FaultCode) :
    exec i s ≠ .next (s.raise c) := by
  intro hr
  rw [h, Host.Outcome.next.injEq] at hr
  rw [hr, State.raise_fault] at ht
  cases ht

theorem eq_of_execAll_nil {s t : State} (h : execAll [] s = .next t) : t = s := by
  rw [execAll, Host.Outcome.next.injEq] at h
  exact h.symm

/-- A run of one command and more is that command and the run of the others. -/
theorem execAll_cons_inv {i : Instr} {is : List Instr} {s t : State} (h : execAll (i :: is) s = .next t) :
    ∃ u, exec i s = .next u ∧ execAll is u = .next t :=
  ⟨_, exec_eq i s, (execAll_cons_next (exec_eq i s) is).symm.trans h⟩

/-- A run that ends with no fault latched started with none. -/
theorem execAll_fault_none {is : List Instr} {s t : State} (h : execAll is s = .next t) (ht : t.fault = none) :
    s.fault = none := by
  induction is generalizing s with
  | nil => rwa [← eq_of_execAll_nil h]
  | cons i is ih =>
    obtain ⟨u, hu, hrest⟩ := execAll_cons_inv h
    exact exec_fault_none hu (ih hrest)

/-- R75: a SAMPLE that does not fault completes. -/
theorem eq_sampled_of_exec {s t : State} (h : exec .sample s = .next t) (ht : t.fault = none) : t = sampled s := by
  have hf := exec_fault_none h ht
  by_cases hc : wholeCycles s = 0 ∨ 0 < s.ch.period
  · rw [exec_sample_completes hf hc, Host.Outcome.next.injEq] at h
    exact h.symm
  · exact absurd (exec_sample_raises hf (by omega) (by omega)) (exec_ne_raise h ht _)

/-- R78: a command other than SAMPLE that does not fault moves master time by the cycles it names. -/
theorem time_of_exec_ne_sample {i : Instr} {s t : State} (hi : i ≠ .sample) (h : exec i s = .next t)
    (ht : t.fault = none) : t.time = s.time + updateCount i := by
  have hf := exec_fault_none h ht
  cases i with
  | sample => exact absurd rfl hi
  | update n =>
    by_cases hc : n = 0 ∨ 0 < s.ch.period
    · rw [exec_update_completes hf hc, Host.Outcome.next.injEq] at h
      rw [← h, State.respond_time, consume_time, updateCount]
    · exact absurd (exec_update_raises hf (by tauto) (by omega)) (exec_ne_raise h ht _)
  | _ =>
    obtain ⟨-, -, -, -, -, htime, -⟩ := onlyTheNamedCommandsWrite _ s t h
    by_contra hne
    simpa using htime (.inr (.inr (.inr hne)))

/-- R78: a command other than SAMPLE keeps the parameters, the accumulator and the frames. -/
theorem keeps_of_exec_ne_sample {i : Instr} {s t : State} (hi : i ≠ .sample) (h : exec i s = .next t) :
    t.cfg = s.cfg ∧ t.acc = s.acc ∧ t.frames = s.frames := by
  obtain ⟨hcfg, -, -, -, -, -, -, -, -, hconv, -⟩ := onlyTheNamedCommandsWrite i s t h
  exact ⟨hcfg, not_not.mp fun hne => hi (hconv (.inl hne)), not_not.mp fun hne => hi (hconv (.inr hne))⟩

/-! ## Drift (R78) -/

@[simp] theorem sampleCount_nil : sampleCount [] = 0 := rfl

@[simp] theorem sampleCount_cons_sample (is : List Instr) : sampleCount (.sample :: is) = sampleCount is + 1 :=
  List.count_cons_self

theorem sampleCount_cons_of_ne {i : Instr} (hi : i ≠ .sample) (is : List Instr) :
    sampleCount (i :: is) = sampleCount is := List.count_cons_of_ne hi

/-- Dividing what is added to the remainder loses no cycle. -/
theorem div_add_mod_add_div (x y : Nat) {d : Nat} (hd : 0 < d) : x / d + (x % d + y) / d = (x + y) / d := by
  rw [← Nat.mul_add_div hd, ← Nat.add_assoc, Nat.div_add_mod]

/-- R78 from any accumulator below `OUTPUT_HZ`: the run divides its SAMPLE commands' share of the clock together with
what the accumulator held. -/
theorem execAll_acc_time (is : List Instr) : ∀ {s t : State}, s.acc < s.cfg.outputHz → execAll is s = .next t →
    t.fault = none →
    t.acc = (s.acc + sampleCount is * s.cfg.clockHz) % s.cfg.outputHz ∧
      t.time = s.time + (s.acc + sampleCount is * s.cfg.clockHz) / s.cfg.outputHz + (is.map updateCount).sum := by
  induction is with
  | nil =>
    intro s t hacc h _
    obtain rfl := eq_of_execAll_nil h
    simp [Nat.mod_eq_of_lt hacc, Nat.div_eq_of_lt hacc]
  | cons i is ih =>
    intro s t hacc h ht
    have hd : 0 < s.cfg.outputHz := by omega
    obtain ⟨u, hu, hrest⟩ := execAll_cons_inv h
    have huf := execAll_fault_none hrest ht
    by_cases hi : i = .sample
    · subst hi
      obtain rfl := eq_sampled_of_exec hu huf
      obtain ⟨hacc', htime'⟩ := ih (by simpa [accResidue] using Nat.mod_lt _ hd) hrest ht
      have hsum : accAdded s + sampleCount is * s.cfg.clockHz =
          s.acc + sampleCount (.sample :: is) * s.cfg.clockHz := by
        rw [accAdded, sampleCount_cons_sample, Nat.succ_mul]
        omega
      rw [sampled_acc, sampled_cfg, accResidue] at hacc' htime'
      rw [sampled_time, wholeCycles, Nat.add_assoc s.time, div_add_mod_add_div _ _ hd] at htime'
      rw [← hsum]
      exact ⟨hacc'.trans (Nat.mod_add_mod _ _ _), by simpa [updateCount] using htime'⟩
    · obtain ⟨hcfg, hacc', -⟩ := keeps_of_exec_ne_sample hi hu
      have htime := time_of_exec_ne_sample hi hu huf
      rw [sampleCount_cons_of_ne hi, List.map_cons, List.sum_cons, ← hcfg, ← hacc']
      obtain ⟨hacc'', htime''⟩ := ih (by rwa [hcfg, hacc']) hrest ht
      exact ⟨hacc'', by omega⟩

/-- Settles O41: the run's closed form at an empty accumulator, and one division with the accumulator below the
divisor. -/
theorem sampleDriftIsBelowOneCycle : Obligations.SampleDriftIsBelowOneCycle := by
  refine ⟨fun is s t hd hacc _ h ht => ?_, fun s h => ?_⟩
  · simpa only [hacc, Nat.zero_add] using execAll_acc_time is (hacc ▸ hd) h ht
  · rw [wholeCycles, accAdded, Nat.add_div (Config.wf.outputHz_pos h.cfg_wf), Nat.div_eq_of_lt h.acc_lt]
    split <;> omega

/-! ## Frames (R77) -/

/-- Settles O42, by induction over the commands: SAMPLE appends its frame, and any other command keeps the frames. -/
theorem oneDuplicatedFramePerSample : Obligations.OneDuplicatedFramePerSample := by
  intro is
  induction is with
  | nil =>
    intro s t _ h _
    obtain rfl := eq_of_execAll_nil h
    exact ⟨[], by simp, rfl, by simp⟩
  | cons i is ih =>
    intro s t _ h ht
    obtain ⟨u, hu, hrest⟩ := execAll_cons_inv h
    have huf := execAll_fault_none hrest ht
    obtain ⟨fr, hfr, hlen, hdup⟩ := ih u t huf hrest ht
    by_cases hi : i = .sample
    · subst hi
      obtain rfl := eq_sampled_of_exec hu huf
      refine ⟨outputFrame (ctlAdvance (wholeCycles s) s) :: fr, by simp [hfr], by simp [hlen], ?_⟩
      exact List.forall_mem_cons.mpr ⟨rfl, hdup⟩
    · obtain ⟨-, -, hframes⟩ := keeps_of_exec_ne_sample hi hu
      exact ⟨fr, hframes ▸ hfr, hlen.trans (sampleCount_cons_of_ne hi is).symm, hdup⟩

end Sys2Proof.Machine

/-! The statements of 60_exceptions.md: which command faults and how (O43), that a fault stays until reset (O44), that a
block with a frequency written does not fault (O45), and that an idle block keeps its state (O50). -/

namespace Sys2Proof.Machine

/-! ## Precise faults (R81, R82, R83) -/

/-- R81: with no fault latched, a command that raises one on this state. -/
def Faults (i : Instr) (s : State) : Prop :=
  i = .setfreq 0 ∨
    (s.ch.period = 0 ∧ ((∃ n, i = .update n ∧ n ≠ 0) ∨ (i = .sample ∧ 0 < wholeCycles s)))

/-- R81: the code a command raises where it faults. -/
def raisedCode (i : Instr) : FaultCode := if i = .setfreq 0 then .invalidFrequency else .channelUnconfigured

/-- R82: a command that faults takes the fault and does nothing else. -/
theorem exec_of_faults {i : Instr} {s : State} (hf : s.fault = none) (h : Faults i s) :
    exec i s = .next (s.raise (raisedCode i)) := by
  obtain rfl | ⟨hP, ⟨n, rfl, hn⟩ | ⟨rfl, hw⟩⟩ := h
  · exact exec_clear hf _
  · exact exec_update_raises hf hn hP
  · exact exec_sample_raises hf hw.ne' hP

/-- R83: a command that does not fault completes with no fault latched. -/
theorem exec_of_not_faults {i : Instr} {s : State} (hf : s.fault = none) (h : ¬ Faults i s) :
    ∃ t, exec i s = .next t ∧ t.fault = none := by
  cases i with
  | setfreq f =>
    have hne : ¬ f = 0#11 := fun h0 => h (.inl (congrArg Instr.setfreq h0))
    exact ⟨_, exec_clear hf _, by rwa [commandEffect, if_neg hne]⟩
  | update n =>
    have hconf : n = 0 ∨ 0 < s.ch.period := by
      by_contra! hun
      exact h (.inr ⟨Nat.le_zero.mp hun.2, .inl ⟨n, rfl, hun.1⟩⟩)
    exact ⟨_, exec_update_completes hf hconf, by simpa using hf⟩
  | sample =>
    have hconf : wholeCycles s = 0 ∨ 0 < s.ch.period := by
      by_contra! hun
      exact h (.inr ⟨Nat.le_zero.mp hun.2, .inr ⟨rfl, Nat.pos_of_ne_zero hun.1⟩⟩)
    exact ⟨_, exec_sample_completes hf hconf, by simpa [sampled] using hf⟩
  | setduty d => exact ⟨_, exec_clear hf _, hf⟩
  | setenv iv dir per => exact ⟨_, exec_clear hf _, hf⟩
  | trig => exact ⟨_, exec_clear hf _, hf⟩
  | rdsample => exact ⟨_, exec_clear hf _, hf⟩
  | rdvol => exact ⟨_, exec_clear hf _, hf⟩

/-- Settles O43: a reserved word raises code 1, and a command faults as `Faults` says, with its one code. -/
theorem faultsArePrecise : Obligations.FaultsArePrecise := by
  refine ⟨fun _ _ hf hd => runWord_of_reserved_clear hd hf, fun i s t hf hexec => ?_⟩
  change (t.fault ≠ none ↔ Faults i s) ∧ (t.fault ≠ none → t = s.raise (raisedCode i))
  by_cases h : Faults i s
  · rw [exec_of_faults hf h, Host.Outcome.next.injEq] at hexec
    subst hexec
    exact ⟨iff_of_true nofun h, fun _ => rfl⟩
  · obtain ⟨u, hu, hclear⟩ := exec_of_not_faults hf h
    obtain rfl : t = u := by simpa [hexec] using hu
    exact ⟨iff_of_false (not_not_intro hclear) h, fun hne => absurd hclear hne⟩

/-! ## The latched fault (R84) -/

/-- R84: under a latched fault every word, command or reserved, is only answered. -/
theorem runWord_latched {s : State} {c : FaultCode} (hf : s.fault = some c) (w : Word) :
    runWord w s = .next (s.respond (.faulted c)) := by
  cases hd : decode w with
  | command i => rw [runWord_of_command hd, exec_latched hf]
  | reserved => rw [runWord_of_reserved hd, execReserved_eq, State.unlessFaulted_latched hf]

/-- Settles O44: of the events a step can take, only a reset does more under a latched fault than answer it. -/
theorem faultIsLatchedUntilReset : Obligations.FaultIsLatchedUntilReset := by
  refine ⟨fun s w rest c hwf hf hin => ?_, fun s t c hf hstep hne => ?_⟩
  · rw [step_of_inbox_cons hwf hin]
    exact runWord_latched (s := s.withInbox rest) hf w
  · obtain ⟨hwf, ⟨-, rfl⟩ | ⟨rest, hin, rfl⟩ | ⟨w, rest, hin, -⟩⟩ := step_cases hstep
    · exact absurd hf hne
    · exact ⟨rest, hin, rfl⟩
    · have hword : step s = .next ((s.withInbox rest).respond (.faulted c)) :=
        (step_of_inbox_cons hwf hin).trans (runWord_latched (s := s.withInbox rest) hf w)
      rw [hstep, Host.Outcome.next.injEq] at hword
      exact absurd (hword ▸ hf) hne

/-! ## A block with a frequency written (R61, R81) -/

theorem not_faults_of_period_pos {i : Instr} {s : State} (hP : 0 < s.ch.period) (hi : i ≠ .setfreq 0) :
    ¬ Faults i s := fun h => h.elim hi fun ⟨h0, _⟩ => hP.ne' h0

theorem periodOf_pos (f : BitVec 11) : 0 < periodOf f := Nat.mul_pos (Nat.sub_pos_of_lt f.isLt) (by decide)

/-- R61: no command unsets a frequency that is written: SETFREQ alone writes the period, and never 0. -/
theorem period_pos_of_exec {i : Instr} {s t : State} (hP : 0 < s.ch.period) (h : exec i s = .next t) :
    0 < t.ch.period := by
  by_cases hsame : t.ch.period = s.ch.period
  · rwa [hsame]
  · obtain ⟨-, -, hperiod, -⟩ := onlyTheNamedCommandsWrite i s t h
    obtain ⟨f, rfl⟩ := hperiod hsame
    obtain ⟨-, rfl⟩ | ⟨c, -, rfl⟩ := exec_cases h
    · rw [commandEffect]
      split
      · exact hP
      · exact periodOf_pos f
    · exact hP

/-- Settles O45, by induction over the commands: each completes with no fault and leaves a frequency written. -/
theorem configuredBlockNeverFaults : Obligations.ConfiguredBlockNeverFaults := by
  intro is
  induction is with
  | nil => exact fun s hf _ _ => ⟨s, rfl, hf⟩
  | cons i is ih =>
    intro s hf hP his
    obtain ⟨hi, his⟩ := List.forall_mem_cons.mp his
    obtain ⟨u, hu, huf⟩ := exec_of_not_faults hf (not_faults_of_period_pos hP hi)
    obtain ⟨t, ht, htf⟩ := ih u huf (period_pos_of_exec hP hu) his
    exact ⟨t, (execAll_cons_next hu is).trans ht, htf⟩

/-! ## The idle block (R89, R92) -/

/-- A machine whose step leaves a state as it is stays there for any number of steps. -/
theorem run_of_step_eq_self {M : Host.Core} {s : M.State} (h : M.step s = .next s) (k : Nat) :
    M.run k s = .next s := by
  induction k with
  | zero => rfl
  | succ k ih =>
    rw [Host.Core.run, h]
    exact ih

/-- Settles O50: an idle step is a fixed point. -/
theorem idleBlockKeepsItsState : Obligations.IdleBlockKeepsItsState := fun _ k hwf hin =>
  run_of_step_eq_self (M := core) (step_of_inbox_nil hwf hin) k

end Sys2Proof.Machine

/-! The statements of 70_reset_and_hazards.md: the timeline of the frame sequencer (O37, O38, O39), what reset gives
(O51, O52, O54), the launch of a channel (O56), a zero counter (O27), and writes that wait for the next crossing or
trigger (O29, O58). -/

namespace Sys2Proof.Machine

/-! ## The timeline of master time (R106)

`Timeline` speaks of the state's own master time, which moves only once an advance is over. `OnTimeline` speaks of any
time, so that it can follow the advance from one sub-step to the next. -/

/-- Where a frame sequencer with divider `d` stands at time `T`. -/
def OnTimeline (d T : Nat) (fs : FrameSequencer) : Prop := fs.counter = d - T % d ∧ fs.step.val = T / d % 8

theorem timeline_iff (s : State) : Timeline s ↔ OnTimeline s.cfg.fsDiv s.time s.fs := Iff.rfl

/-- At time 0 the frame sequencer stands as reset leaves it. -/
theorem onTimeline_zero (d : Nat) : OnTimeline d 0 ⟨d, 0⟩ := by simp [OnTimeline]

/-- On the timeline the next boundary is still to come. -/
theorem OnTimeline.counter_pos {d T : Nat} {fs : FrameSequencer} (h : OnTimeline d T fs) (hd : 1 ≤ d) :
    1 ≤ fs.counter := by
  rw [h.1]
  exact Nat.sub_pos_of_lt (Nat.mod_lt T hd)

/-- Cycles that end before the next boundary. -/
theorem OnTimeline.countDown {d T n : Nat} {fs : FrameSequencer} (h : OnTimeline d T fs) (hn : n < fs.counter) :
    OnTimeline d (T + n) { fs with counter := fs.counter - n } := by
  obtain ⟨hcounter, hstep⟩ := h
  have hlt : T % d + n < d := by omega
  have hsplit : T + n = d * (T / d) + (T % d + n) := by rw [← Nat.add_assoc, Nat.div_add_mod]
  have hd : 0 < d := by omega
  constructor
  · rw [hsplit, Nat.mul_add_mod, Nat.mod_eq_of_lt hlt, hcounter, Nat.sub_sub]
  · rw [hsplit, Nat.mul_add_div hd, Nat.div_eq_of_lt hlt, Nat.add_zero, hstep]

/-- The cycles up to the next boundary: its number is one more than the last one's. -/
theorem OnTimeline.boundary {d T : Nat} {fs : FrameSequencer} (h : OnTimeline d T fs) (hd : 1 ≤ d) :
    OnTimeline d (T + fs.counter) ⟨d, fs.step + 1⟩ := by
  obtain ⟨hcounter, hstep⟩ := h
  have hmod : T % d < d := Nat.mod_lt T hd
  have hsplit : T + fs.counter = d * (T / d + 1) := by
    rw [Nat.mul_succ]
    have := Nat.div_add_mod T d
    omega
  constructor
  · rw [hsplit, Nat.mul_mod_right, Nat.sub_zero]
  · rw [hsplit, Nat.mul_div_cancel_left _ hd, fin8_add_one_val, hstep, Nat.mod_add_mod]

/-- R68, R69: a sub-step moves the frame sequencer along the timeline by its cycles. -/
theorem OnTimeline.subStep {T n : Nat} {s : State} (h : OnTimeline s.cfg.fsDiv T s.fs) (hd : 1 ≤ s.cfg.fsDiv)
    (hn : n ≤ s.fs.counter) : OnTimeline s.cfg.fsDiv (T + n) (subStep n s).fs := by
  rw [subStep_fs]
  split
  case isTrue hlt => exact h.countDown hlt
  case isFalse hge =>
    obtain rfl : n = s.fs.counter := hn.antisymm (not_lt.mp hge)
    exact h.boundary hd

theorem OnTimeline.ctlLoop (fuel : Nat) : ∀ {rem T : Nat} {s : State}, OnTimeline s.cfg.fsDiv T s.fs →
    1 ≤ s.cfg.fsDiv → rem ≤ fuel → OnTimeline s.cfg.fsDiv (T + rem) (ctlLoop fuel rem s).fs := by
  induction fuel with
  | zero =>
    intro rem T s h _ hrem
    obtain rfl := Nat.le_zero.mp hrem
    exact h
  | succ fuel ih =>
    intro rem T s h hd hrem
    rcases Nat.eq_zero_or_pos rem with rfl | hpos
    · exact h
    have hcounter := h.counter_pos hd
    have hfirst := h.subStep hd (Nat.min_le_right rem s.fs.counter)
    have hsum : T + rem = T + min rem s.fs.counter + (rem - min rem s.fs.counter) := by omega
    rw [← subStep_cfg (min rem s.fs.counter) s] at hfirst hd ⊢
    rw [ctlLoop_succ hpos, hsum]
    exact ih hfirst hd (by omega)

/-- An advance moves the frame sequencer along the timeline by its cycles, whatever the channel does. -/
theorem OnTimeline.ctlAdvance {T : Nat} {s : State} (h : OnTimeline s.cfg.fsDiv T s.fs) (hd : 1 ≤ s.cfg.fsDiv)
    (n : Nat) : OnTimeline s.cfg.fsDiv (T + n) (ctlAdvance n s).fs := h.ctlLoop (n + 1) hd (Nat.le_succ n)

/-! ### Commands and steps

The operations that write neither the parameters nor the frame sequencer nor master time keep the timeline as it is. -/

theorem Timeline.withCh {s : State} (h : Timeline s) (x : Channel) : Timeline (s.withCh x) := h

theorem Timeline.withEnv {s : State} (h : Timeline s) (x : Envelope) : Timeline (s.withEnv x) := h

theorem Timeline.withAcc {s : State} (h : Timeline s) (x : Nat) : Timeline (s.withAcc x) := h

theorem Timeline.withInbox {s : State} (h : Timeline s) (x : List HostEvent) : Timeline (s.withInbox x) := h

theorem Timeline.withTrigFresh {s : State} (h : Timeline s) (b : Bool) : Timeline (s.withTrigFresh b) := h

theorem Timeline.emit {s : State} (h : Timeline s) (f : Frame) : Timeline (s.emit f) := h

theorem Timeline.raise {s : State} (h : Timeline s) (c : FaultCode) : Timeline (s.raise c) := h

theorem Timeline.respond {s : State} (h : Timeline s) (r : Response) : Timeline (s.respond r) := h

/-- R29: master time moves by the cycles consumed. -/
theorem Timeline.consume {s : State} (h : Timeline s) (hd : 1 ≤ s.cfg.fsDiv) (n : Nat) : Timeline (consume n s) := by
  rw [timeline_iff, consume_cfg, consume_time, consume_fs]
  exact OnTimeline.ctlAdvance h hd n

/-- Only UPDATE and SAMPLE move the frame sequencer or master time, and they move both by the same cycles. -/
theorem Timeline.commandEffect {s : State} (h : Timeline s) (hd : 1 ≤ s.cfg.fsDiv) (i : Instr) :
    Timeline (commandEffect i s) := by
  cases i with
  | setfreq f =>
    rw [Machine.commandEffect]
    split
    · exact h.raise _
    · exact (h.withCh _).respond _
  | update n =>
    rw [Machine.commandEffect]
    split
    · exact h.raise _
    · exact (h.consume hd _).respond _
  | sample =>
    rw [Machine.commandEffect]
    split
    · exact h.raise _
    · exact (((h.consume hd _).withAcc _).emit _).respond _
  | setduty d => exact (h.withCh _).respond _
  | setenv iv dir per => exact ((h.withEnv _).withTrigFresh _).respond _
  | trig => exact (((h.withEnv _).withCh _).withTrigFresh _).respond _
  | rdsample => exact h.respond _
  | rdvol => exact h.respond _

/-- R84: the answer to a latched fault stays on the timeline. -/
theorem Timeline.unlessFaulted {s run : State} (h : Timeline s) (hrun : Timeline run) :
    Timeline (s.unlessFaulted run) := by
  obtain ⟨-, hclear⟩ | ⟨c, -, hlatched⟩ := s.unlessFaulted_cases run
  · rwa [hclear]
  · rw [hlatched]
    exact h.respond _

theorem timeline_resetOf (c : Config) : Timeline (State.resetOf c) := onTimeline_zero c.fsDiv

theorem timeline_assertReset (s : State) : Timeline s.assertReset := timeline_resetOf s.cfg

/-- Settles O37: a step is idle, a reset, a command or a reserved word, and each keeps the timeline. -/
theorem stepKeepsTheTimeline : Obligations.StepKeepsTheTimeline := by
  intro s t h hstep
  obtain ⟨hwf, ⟨-, rfl⟩ | ⟨rest, -, rfl⟩ | ⟨w, rest, -, ⟨i, -, hexec⟩ | ⟨-, hres⟩⟩⟩ := step_cases hstep
  · exact h
  · exact timeline_assertReset _
  · have htaken := h.withInbox rest
    rw [exec_eq, Host.Outcome.next.injEq] at hexec
    exact hexec ▸ htaken.unlessFaulted (htaken.commandEffect (Config.wf.fsDiv_pos hwf) i)
  · have htaken := h.withInbox rest
    rw [execReserved_eq, Host.Outcome.next.injEq] at hres
    exact hres ▸ htaken.unlessFaulted (htaken.raise _)

/-- Settles O38: `T = 0` at the default parameters. -/
theorem resetIsOnTheTimeline : Obligations.ResetIsOnTheTimeline := timeline_resetOf Config.default

/-! ### Boundaries and ticks since reset -/

/-- A down-counter that starts from its reload value expires once per whole period. -/
theorem expiries_self {d : Nat} (hd : 0 < d) (n : Nat) : expiries d d n = n / d := by
  rw [expiries]
  split
  case isTrue hlt => rw [Nat.div_eq_of_lt hlt]
  case isFalse hge => rw [Nat.div_eq_sub_div hd (not_lt.mp hge), Nat.add_comm]

/-- R70: the ticks among the first `T / d` boundaries, for either value of the parameter. -/
theorem ticksAmong_zero_div (afterAdvance : Bool) (d T : Nat) :
    ticksAmong afterAdvance 0 (T / d) = if afterAdvance then (T / d + 1) / 8 else T / (8 * d) := by
  cases afterAdvance with
  | true => simp [ticksAmong]
  | false => simp [ticksAmong, Nat.div_div_eq_div_mul, Nat.mul_comm]

/-- Settles O39: the frame sequencer is on the timeline from time 0, and the closed form counts the ticks. -/
theorem ticksSinceResetAreTheDividers : Obligations.TicksSinceResetAreTheDividers := by
  intro T s h hfs
  have hd := Config.wf.fsDiv_pos h.cfg_wf
  have hstart : OnTimeline s.cfg.fsDiv 0 s.fs := hfs ▸ onTimeline_zero _
  obtain ⟨hcounter, hstep⟩ := hstart.ctlAdvance hd T
  obtain ⟨-, -, henv⟩ := frameSequencerClosedForm T s h
  have hboundaries : expiries s.fs.counter s.cfg.fsDiv T = T / s.cfg.fsDiv := by rw [hfs, expiries_self hd]
  have hticks := ticksAmong_zero_div s.cfg.fsEventAfterAdvance s.cfg.fsDiv T
  have hindex : s.fs.step.val = 0 := by rw [hfs]; rfl
  rw [Nat.zero_add] at hcounter hstep
  rw [hboundaries, hindex, hticks] at henv
  rw [← hindex] at hticks
  exact ⟨hstep, hcounter, henv, hboundaries, hticks⟩

/-! ## Reset (R93, R94, R95) -/

/-- R93: the step that takes a reset. -/
theorem step_of_inbox_reset {s : State} {rest : List HostEvent} (hwf : s.cfg.wf = true)
    (hin : s.inbox = .reset :: rest) : step s = .next (s.withInbox rest).assertReset := step_of_inbox_cons hwf hin

/-- Settles O51: the step answers the reset state of its parameters, with the ports kept. -/
theorem resetGivesEveryElementItsValue : Obligations.ResetGivesEveryElementItsValue := by
  intro s rest hwf hin
  refine ⟨_, step_of_inbox_reset hwf hin, ?_⟩
  simp [State.assertReset_eq, State.resetOf]

/-- Settles O52: each value is the definition's, and the default parameters are well-formed. -/
theorem resetStateHasTheResetValues : Obligations.ResetStateHasTheResetValues :=
  ⟨rfl, rfl, rfl, rfl, rfl, rfl, rfl, rfl, Config.default_wf⟩

/-- Settles O54: `inv_resetOf`, clause by clause the reset values. -/
theorem resetMeetsTheStateInvariant : Obligations.ResetMeetsTheStateInvariant := fun _ => inv_resetOf

/-! ## Launching a channel (R96, R51) -/

/-- R63, R54: TRIG with a frequency written. -/
theorem triggered_commandEffect_trig {s : State} (hf : s.fault = none) (hP : 0 < s.ch.period) :
    Triggered (commandEffect .trig s) := ⟨hf, hP, hP, rfl, rfl⟩

theorem exec_setfreq_completes {f : BitVec 11} {s : State} (hf : s.fault = none) (h0 : f ≠ 0#11) :
    exec (.setfreq f) s = .next ((s.withCh { s.ch with period := periodOf f }).respond .ack) := by
  rw [exec_clear hf, commandEffect, if_neg h0]

/-- R51: the block when the TRIG of NOTE is reached. -/
def noteSettings (f : BitVec 11) (d : BitVec 2) (iv : BitVec 4) (dir : Direction) (per : BitVec 3) (s : State) :
    State :=
  commandEffect (.setenv iv dir per)
    (commandEffect (.setduty d) ((s.withCh { s.ch with period := periodOf f }).respond .ack))

theorem noteSettings_fault (f : BitVec 11) (d : BitVec 2) (iv : BitVec 4) (dir : Direction) (per : BitVec 3)
    (s : State) : (noteSettings f d iv dir per s).fault = s.fault := by simp [noteSettings, commandEffect]

theorem noteSettings_ch (f : BitVec 11) (d : BitVec 2) (iv : BitVec 4) (dir : Direction) (per : BitVec 3) (s : State) :
    (noteSettings f d iv dir per s).ch = { s.ch with period := periodOf f, duty := dutyIndex d } := rfl

/-- R51: the four commands of NOTE, operands as fields of the words. -/
theorem execAll_note {f : BitVec 11} (d : BitVec 2) (iv : BitVec 4) (dir : Direction) (per : BitVec 3) {s : State}
    (hf : s.fault = none) (h0 : f ≠ 0#11) :
    execAll [.setfreq f, .setduty d, .setenv iv dir per, .trig] s =
      .next (commandEffect .trig (noteSettings f d iv dir per s)) := by
  rw [execAll_cons_next (exec_setfreq_completes hf h0), execAll_cons_next (exec_clear (by simpa using hf) _),
    execAll_cons_next (exec_clear (by simpa [commandEffect] using hf) _)]
  exact execAll_cons_next (exec_clear ((noteSettings_fault f d iv dir per s).trans hf) _) []

/-- The launch premise after NOTE: the block its TRIG reaches has no fault and a frequency written. -/
theorem triggered_note (f : BitVec 11) (d : BitVec 2) (iv : BitVec 4) (dir : Direction) (per : BitVec 3) {s : State}
    (hf : s.fault = none) : Triggered (commandEffect .trig (noteSettings f d iv dir per s)) := by
  apply triggered_commandEffect_trig
  · rw [noteSettings_fault, hf]
  · rw [noteSettings_ch]
    exact periodOf_pos f

/-- Settles O56: operands in range are the numbers their fields hold. -/
theorem noteTriggersTheChannel : Obligations.NoteTriggersTheChannel := by
  refine ⟨fun s hf hP => ⟨_, exec_clear hf _, triggered_commandEffect_trig hf hP⟩, ?_⟩
  intro f d iv per dir s hf1 hwf hf
  obtain ⟨⟨⟨hf11, hd⟩, hiv⟩, hper⟩ : ((f ≤ 2047 ∧ d ≤ 3) ∧ iv ≤ 15) ∧ per ≤ 7 := by
    simpa [Line.wellFormed] using hwf
  have hfval : (BitVec.ofNat 11 f).toNat = f := Nat.mod_eq_of_lt (by omega)
  have hdval : (dutyIndex (BitVec.ofNat 2 d)).val = d := Nat.mod_eq_of_lt (by omega)
  have hivval : (volumeOf (BitVec.ofNat 4 iv)).val = iv := Nat.mod_eq_of_lt (by omega)
  have hperval : (envPeriodOf (BitVec.ofNat 3 per)).val = per := Nat.mod_eq_of_lt (by omega)
  have hf0 : BitVec.ofNat 11 f ≠ 0#11 := fun h0 => by
    rw [h0] at hfval
    exact Nat.ne_of_gt hf1 hfval.symm
  refine ⟨_, execAll_note _ _ _ _ hf hf0, triggered_note _ _ _ _ _ hf, ?_⟩
  simp [noteSettings, commandEffect, periodOf, hfval, hdval, hivval, hperval]

/-! ## A zero counter with a period written (R97) -/

/-- A sub-step reads the channel only through its advance. -/
theorem subStep_congr_ch {n : Nat} {s : State} {ch : Channel}
    (h : chAdvance s.cfg s.env.volume n s.ch = chAdvance s.cfg s.env.volume n ch) :
    subStep n s = subStep n { s with ch := ch } := by
  rw [subStep, h]
  rfl

/-- Settles O27: the first sub-step is a positive advance of the channel, whose zero counter crosses at once. -/
theorem zeroCounterCrossesAtOnce : Obligations.ZeroCounterCrossesAtOnce := by
  intro n s h hc hP hn
  have hfirst : 0 < min n s.fs.counter := Nat.lt_min.mpr ⟨hn, h.fs_counter_pos⟩
  refine ⟨?_, crossing_counter _ _ _⟩
  rw [ctlAdvance, ctlAdvance, ctlLoop_succ hn, ctlLoop_succ hn,
    subStep_congr_ch (chAdvance_of_counter_zero _ _ hP hfirst hc)]

/-! ## Writes that wait for the next crossing (R98, R100, R101) -/

/-- Settles O29, by induction over the sub-steps: none of them reaches the channel's counter. -/
theorem outputHoldsUntilTheNextCrossing : Obligations.OutputHoldsUntilTheNextCrossing := by
  intro n
  induction n using Nat.strong_induction_on with
  | _ n ih =>
    intro s h hn
    rcases Nat.eq_zero_or_pos n with rfl | hpos
    · rw [ctlAdvance_zero, Nat.sub_zero]
    have hk : 0 < min n s.fs.counter := Nat.lt_min.mpr ⟨hpos, h.fs_counter_pos⟩
    have hle : min n s.fs.counter ≤ n := Nat.min_le_left _ _
    have hch : (subStep (min n s.fs.counter) s).ch = { s.ch with counter := s.ch.counter - min n s.fs.counter } := by
      rw [subStep_ch, chAdvance_count _ _ (hle.trans_lt hn)]
    have hrest : n - min n s.fs.counter < (subStep (min n s.fs.counter) s).ch.counter := by
      rw [hch]
      exact Nat.sub_lt_sub_right hle hn
    rw [h.ctlAdvance_eq hpos, ih _ (Nat.sub_lt hpos hk) _ (h.subStep _) hrest, hch]
    simp only [Nat.sub_sub, Nat.add_sub_cancel' hle]

/-! ## An initial volume that waits for the next trigger (R99)

Replacing the initial volume commutes with every operation but the envelope initialisation, which alone reads it. -/

/-- The block with another initial volume. -/
def State.withInitial (s : State) (v : Fin 16) : State := s.withEnv { s.env with initial := v }

theorem envTick_withInitial (e : Envelope) (v : Fin 16) :
    envTick { e with initial := v } = { envTick e with initial := v } := by
  unfold envTick
  dsimp only
  split
  · rfl
  · split <;> rfl

theorem dispatch_withInitial (i : Fin 8) (s : State) (v : Fin 16) :
    dispatch i (s.withInitial v) = (dispatch i s).withInitial v := by
  by_cases hi : i = 7
  · subst hi
    exact congrArg s.withEnv (envTick_withInitial s.env v)
  · rw [dispatch_other hi, dispatch_other hi]

/-- R69: the reload and the new step index, then the event of the index dispatched. -/
theorem fsBoundary_eq_dispatch (s : State) :
    fsBoundary s = dispatch (dispatchedIndex s) (s.withFs { counter := s.cfg.fsDiv, step := s.fs.step + 1 }) := by
  rw [dispatchedIndex, fsBoundary]
  split <;> rfl

theorem fsBoundary_withInitial (s : State) (v : Fin 16) :
    fsBoundary (s.withInitial v) = (fsBoundary s).withInitial v := by
  rw [fsBoundary_eq_dispatch, fsBoundary_eq_dispatch]
  exact dispatch_withInitial (dispatchedIndex s) (s.withFs _) v

theorem subStep_withInitial (n : Nat) (s : State) (v : Fin 16) :
    subStep n (s.withInitial v) = (subStep n s).withInitial v := by
  rcases Nat.lt_or_ge n s.fs.counter with h | h
  · rw [subStep_inside h]
    exact subStep_inside h
  · rw [subStep_boundary h, ← fsBoundary_withInitial]
    exact subStep_boundary h

theorem ctlLoop_withInitial (fuel : Nat) (v : Fin 16) : ∀ (rem : Nat) (s : State),
    ctlLoop fuel rem (s.withInitial v) = (ctlLoop fuel rem s).withInitial v := by
  induction fuel with
  | zero => exact fun _ _ => rfl
  | succ fuel ih =>
    intro rem s
    rw [ctlLoop, ctlLoop]
    split
    · rfl
    · rw [← ih, ← subStep_withInitial]
      rfl

theorem consume_withInitial (n : Nat) (s : State) (v : Fin 16) :
    consume n (s.withInitial v) = (consume n s).withInitial v := by
  rw [consume, ctlAdvance, ctlLoop_withInitial]
  rfl

/-- SETENV writes its own initial volume; every other command but TRIG keeps the one it finds. -/
theorem commandEffect_withInitial {i : Instr} (hi : i ≠ .trig) (s : State) (v : Fin 16) :
    ∃ v', commandEffect i (s.withInitial v) = (commandEffect i s).withInitial v' := by
  cases i with
  | trig => exact absurd rfl hi
  | setenv iv dir per => exact ⟨volumeOf iv, rfl⟩
  | setfreq f =>
    refine ⟨v, ?_⟩
    rw [commandEffect, commandEffect]
    split <;> rfl
  | update n =>
    refine ⟨v, ?_⟩
    have hconf : unconfigured (cycleCount n) (s.withInitial v) = unconfigured (cycleCount n) s := rfl
    rw [commandEffect, commandEffect, hconf, consume_withInitial]
    split <;> rfl
  | sample =>
    refine ⟨v, ?_⟩
    have hcycles : wholeCycles (s.withInitial v) = wholeCycles s := rfl
    have hconf : unconfigured (wholeCycles s) (s.withInitial v) = unconfigured (wholeCycles s) s := rfl
    rw [commandEffect, commandEffect, hcycles, hconf, consume_withInitial]
    split <;> rfl
  | setduty d => exact ⟨v, rfl⟩
  | rdsample => exact ⟨v, rfl⟩
  | rdvol => exact ⟨v, rfl⟩

/-- Settles O58: a latched fault is answered as before, and otherwise the command has the same effect beside the initial
volume. -/
theorem initialVolumeWaitsForTheTrigger : Obligations.InitialVolumeWaitsForTheTrigger := by
  intro i s t t' v hi ht ht'
  change exec i (s.withInitial v) = .next t' at ht'
  change t' = t.withInitial t'.env.initial
  suffices h : ∃ v', t' = t.withInitial v' by
    obtain ⟨v', rfl⟩ := h
    rfl
  rcases exec_cases ht with ⟨hf, rfl⟩ | ⟨c, hf, rfl⟩
  · rw [exec_clear (s := s.withInitial v) hf, Host.Outcome.next.injEq] at ht'
    rw [← ht']
    exact commandEffect_withInitial hi s v
  · rw [exec_latched (s := s.withInitial v) hf, Host.Outcome.next.injEq] at ht'
    exact ⟨v, ht'.symm⟩

end Sys2Proof.Machine

/-! Words written out from the field layout table (O6), a table word presented next (O48), and that no step changes a
parameter (O55). -/

namespace Sys2Proof

/-! ## Written-out words (95_test_vectors.md, Decode) -/

/-- Settles O6: the eight are their commands' words, and no row of the opcode map selects the five. -/
theorem sampleWordsDecode : Obligations.SampleWordsDecode := by
  simp only [Obligations.SampleWordsDecode, decode_eq_command_iff, decode_eq_reserved_iff]
  decide

/-! ## Table words (R31, R37) -/

/-- R31: what the bytes of one word decode to, with no byte left over. -/
theorem decodeBytes_bytesOfWord (w : Word) : decodeBytes (bytesOfWord w) = some (decode w, []) := by
  have hw : wordOfBytes (w.extractLsb' 0 8) (w.extractLsb' 8 8) (w.extractLsb' 16 8) (w.extractLsb' 24 8) = w :=
    List.head_eq_of_cons_eq (wordsOfBytes_bytesOfWord_append w [])
  rw [bytesOfWord, decodeBytes, hw]

/-- The byte transport adds nothing to what a table word decodes to. -/
theorem decode_tableWord_of_decodeTableWord {nbits w : Nat} {i : Instr} (h : decodeTableWord nbits w = some i) :
    decode (tableWord nbits w) = .command i := by
  rw [decodeTableWord, decodeBytes_bytesOfWord] at h
  split at h
  case isTrue => cases h
  case isFalse =>
    cases hd : decode (tableWord nbits w) with
    | command j => simpa [hd] using h
    | reserved => simp [hd] at h

namespace Machine

/-- Taking the table word from the port again gives the state before the host presented it. -/
theorem State.withFetchWord_withInbox (s : State) (nbits w : Nat) :
    (s.withFetchWord nbits w).withInbox s.inbox = s := rfl

/-- Settles O48: the step takes the table word first, and runs the command it decodes to. -/
theorem tableWordsRunAsDecoded : Obligations.TableWordsRunAsDecoded := by
  intro nbits w i s hwf hdec
  have hcommand := decode_tableWord_of_decodeTableWord hdec
  calc step (s.withFetchWord nbits w)
      = perform (.issue (tableWord nbits w)) ((s.withFetchWord nbits w).withInbox s.inbox) :=
        step_of_inbox_cons hwf rfl
    _ = runWord (tableWord nbits w) s := by rw [State.withFetchWord_withInbox, perform]
    _ = exec i s := runWord_of_command hcommand s

/-! ## The parameters (00_scope.md, Implementation parameters) -/

/-- R84: the answer to a latched fault changes no parameter. -/
theorem State.unlessFaulted_cfg {s run : State} (hrun : run.cfg = s.cfg) : (s.unlessFaulted run).cfg = s.cfg := by
  obtain ⟨-, hclear⟩ | ⟨c, -, hlatched⟩ := s.unlessFaulted_cases run
  · rw [hclear, hrun]
  · rw [hlatched, State.respond_cfg]

/-- No command changes a parameter. -/
theorem exec_cfg {i : Instr} {s t : State} (h : exec i s = .next t) : t.cfg = s.cfg :=
  (onlyTheNamedCommandsWrite i s t h).1

/-- A reserved word changes no parameter. -/
theorem execReserved_cfg {s t : State} (h : execReserved s = .next t) : t.cfg = s.cfg := by
  rw [execReserved_eq, Host.Outcome.next.injEq] at h
  exact h ▸ State.unlessFaulted_cfg rfl

/-- Settles O55: a step is idle, a reset, a command or a reserved word, and each keeps the parameters. -/
theorem stepKeepsTheParameters : Obligations.StepKeepsTheParameters := by
  intro s t hstep
  obtain ⟨-, ⟨-, rfl⟩ | ⟨rest, -, rfl⟩ | ⟨w, rest, -, ⟨i, -, hexec⟩ | ⟨-, hres⟩⟩⟩ := step_cases hstep
  · rfl
  · rw [State.assertReset_cfg, State.withInbox_cfg]
  · rw [exec_cfg hexec, State.withInbox_cfg]
  · rw [execReserved_cfg hres, State.withInbox_cfg]

end Machine

end Sys2Proof
